-- ==== Sys2Proof/Word.lean ====
section
/-! DEFINITION. The two word types of BMENC and the one division its sizes need (00_scope.md R5, R6). -/

namespace Sys2Proof

/-- A byte of the spaces RAW, CMP and OUT, and the opcode field of a command word (R6: "A byte is 8 bits"). -/
abbrev Byte := BitVec 8

/-- A register value: `REGW` = 32 bits (R5, R20). -/
abbrev Word := BitVec 32

/-- `ceil8(w) = (w + 7) div 8`, computed in the naturals (R6). -/
def ceil8 (w : Nat) : Nat := (w + 7) / 8

end Sys2Proof
end

