-- ==== Sys2Proof/Config.lean ====
section
/-! DEFINITION. The parameters of BMENC (00_scope.md R5): the fixed ones as constants, the two OPEN ones as
opaque constants, the free byte of an invalid buffer read, and the plain data by which one BMENC is told from
another. -/

namespace Sys2Proof.Config

/-- `TAGW`: "tag: u8" (R5). -/
def tagW : Nat := 8

/-- `LENW`: "length: u16 little-endian" (R5). -/
def lenW : Nat := 16

/-- `LEN_MAX`: the largest value of a `LENW`-bit field, 65535 (R5). -/
def lenMax : Nat := 2 ^ lenW - 1

/-- `WINDOW_BITS`: "window = 2^8 bytes" (R5). No register holds it and no operation changes it. -/
def windowBits : Nat := 8

/-- `LOOKAHEAD_BITS`: "lookahead = 2^4 bytes" (R5). -/
def lookaheadBits : Nat := 4

/-- `C_OVH`, added to the length of the compressed bytes by the selector (R5, R131). -/
def cOvh : Nat := 2

/-- `R_OVH`, added to the length of the raw bytes by the selector (R5, R131). -/
def rOvh : Nat := 1

/-- Which bit of a byte holds the leftmost of its 8 pixels (R5, R105). -/
inductive BitOrder where
  | lsbFirst
  | msbFirst
  deriving DecidableEq, Repr

/-- `BIT_ORDER` = `LSB_FIRST` (R105; the spec's decision D4 from general knowledge, log entry 8). -/
def bitOrder : BitOrder := .lsbFirst

/-- `PAD_BIT` = 0 (R105; the spec's decision D5 from general knowledge, log entry 8). -/
def padBit : Bool := false

/-- The bound `2^32 - 10` of `RAW_LIMIT`, which keeps RAWLEN and OUTLEN inside 32 bits (R5). -/
def rawCeiling : Nat := 2 ^ 32 - 10

/-- `MAX_RAW`, OPEN: "a natural number ≥ 1 or `∞`" (R5, D13); `none` is `∞`. No body: nothing is assumed of it
(log entry 1). -/
opaque maxRaw : Option ℕ+

/-- `compress`, OPEN (R5, R121, D15): a total function from byte sequences to byte sequences, given its window
and lookahead parameters. No body: nothing is assumed of it but that it is a function (log entry 1). -/
opaque compress (windowBits lookaheadBits : Nat) : List Byte → List Byte

/-- The unspecified byte that the `n`-th read of an invalid buffer, or past its length, returns (R165: "a free
draw, different at each read"). A free value: no body (log entry 3). -/
opaque freeByte (n : Nat) : Byte

/-- The OPEN parameters of one BMENC, as plain data (R5: "OPEN means the model takes it as an argument").
`known` lists finitely many pairs (input, output) of this instance's `compress`; everywhere else the instance's
`compress` is the opaque `Config.compress` (log entry 1). -/
structure Params where
  maxRaw : Option ℕ+
  known  : List (List Byte × List Byte)
  deriving DecidableEq, Repr

/-- The parameters of which nothing is known. -/
def Params.open : Params := { maxRaw := Config.maxRaw, known := [] }

end Sys2Proof.Config
end

