-- ==== Sys2Proof/Syntax.lean ====
section
/-! DEFINITION. The syntax of BMENC: one constructor of `Instr` per row of spec/opcode_table.json (eight command
words, five output records), and the host transactions of 44_control.md R161 in the terms of the script notation
of 30_encoding.md R81. -/

namespace Sys2Proof

/-- A BM container by its two forms, told apart by byte 0, the tag (R75). -/
inductive Bm where
  /-- `BM.RAW`, tag 0: the raw packed bytes. -/
  | raw (bytes : List Byte)
  /-- `BM.CMP`, tag 1: the data of a Compressed Block, without its length prefix. -/
  | cmp (data : List Byte)
  deriving DecidableEq, Repr

/-- The rows of spec/opcode_table.json. The first eight are the commands of R72. The last five are the records of
R74 to R77: no command word names one, and one stands here for the act of the sub-unit that writes it whole into
its buffer (log entry 2). -/
inductive Instr where
  /-- NOP, R166. -/
  | nop
  /-- PACK, R104. -/
  | pack
  /-- COMPRESS, R122. -/
  | compress
  /-- SELECT, R131. -/
  | select
  /-- FRAMEBM, R142. -/
  | framebm
  /-- FRAMEBMX, R144. -/
  | framebmx
  /-- FRAMEMETA, R146. -/
  | framemeta
  /-- RESET, R167. -/
  | reset
  /-- CBLK, the Compressed Block, content of CMP (R74). -/
  | cblk (data : List Byte)
  /-- BM.RAW, the BM container in its raw form, content of OUT (R75). -/
  | bmRaw (raw : List Byte)
  /-- BM.CMP, the BM container in its compressed form, content of OUT (R75). -/
  | bmCmp (data : List Byte)
  /-- BMX, the BMX container: width, height and a BM container, content of OUT (R76). -/
  | bmx (width height : Word) (bm : Bm)
  /-- META, the animated-icon metadata record, content of OUT (R77). -/
  | metaRec (width height frameRate frameCount : Word)
  deriving DecidableEq, Repr

/-- The eleven registers, by name (R20). -/
inductive Reg where
  | width | height | frate | fcount | cmd | status | err | tag | rawlen | cmplen | outlen
  deriving DecidableEq, Repr

/-- The three byte spaces a host can read (R50, R165). -/
inductive Space where
  | raw | cmp | out
  deriving DecidableEq, Repr

/-- The five host transactions (R161), one per line form of the script notation (R81). -/
inductive Txn where
  /-- `RD`: register read of a byte offset (R162). -/
  | regRead (offset : Nat)
  /-- `WR`: register write of a 32-bit value to a byte offset (R163). A write to offset 0x10 is a command. -/
  | regWrite (offset : Nat) (value : Word)
  /-- `PX`: pixel write of one bit, true = 1 = white (R164, R33). -/
  | pixWrite (cell : Nat) (bit : Bool)
  /-- `BR`: buffer read of one byte (R165). -/
  | bufRead (space : Space) (index : Nat)
  /-- `HRESET`: hardware reset (R200). -/
  | hardReset
  deriving DecidableEq, Repr

end Sys2Proof
end

