-- ==== Sys2Proof/WellFormed.lean ====
section
/-! DEFINITION. Which instructions and which host transactions are ones the spec has: the length rules of the
records (30_encoding.md R74 to R77, R80) and the shape of a transaction (20_memory.md R56, 44_control.md R164). -/

namespace Sys2Proof

/-- A BM container's payload has a length the records allow: RAW is never empty and at most `2^32 - 10` bytes
(R34), a compressed length fits the u16 field (R74). -/
def Bm.wellFormed : Bm → Bool
  | .raw bytes => decide (1 ≤ bytes.length) && decide (bytes.length ≤ Config.rawCeiling)
  | .cmp data  => decide (data.length ≤ Config.lenMax)

/-- A BMX header and its payload agree: both dimensions are at least 1 (R38, R144), and a raw payload has
`ceil8(width) * height` bytes (R80). -/
def Bm.fits (width height : Word) : Bm → Bool
  | .raw bytes => decide (bytes.length = ceil8 width.toNat * height.toNat)
  | .cmp _     => decide (1 ≤ width.toNat) && decide (1 ≤ height.toNat)

/-- The records' length rules. A command has no operand and is always well formed. -/
def Instr.wellFormed : Instr → Bool
  | .nop => true
  | .pack => true
  | .compress => true
  | .select => true
  | .framebm => true
  | .framebmx => true
  | .framemeta => true
  | .reset => true
  | .cblk data => decide (data.length ≤ Config.lenMax)
  | .bmRaw raw => (Bm.raw raw).wellFormed
  | .bmCmp data => (Bm.cmp data).wellFormed
  | .bmx width height bm => bm.wellFormed && bm.fits width height
  | .metaRec _ _ _ _ => true

/-- A transaction the host interface has, on an instance with `pixCells` pixel cells: register offsets are
multiples of 4 (R56) and cell indices are below `PIX_CELLS` (R164). -/
def Txn.wellFormed (pixCells : Nat) : Txn → Bool
  | .regRead offset => decide (offset % 4 = 0)
  | .regWrite offset _ => decide (offset % 4 = 0)
  | .pixWrite cell _ => decide (cell < pixCells)
  | .bufRead _ _ => true
  | .hardReset => true

end Sys2Proof
end

