-- ==== Sys2Proof/Decode.lean ====
section
/-! DEFINITION. Encodings (30_encoding.md): the command word, decoded by R71 to R73, the records' byte layouts
R74 to R77, the register offsets of R20, and the encoder written from the same tables. -/

namespace Sys2Proof

/-! ### Little-endian fields -/

/-- The `n` low bytes of `v`, least significant first: `MemWrite(S, a, n, v)` writes these (R8), and byte `k` of
an `n`-byte field is `v[8k+7 : 8k]` (R52). -/
def leBytes : Nat → Nat → List Byte
  | 0, _ => []
  | n + 1, v => BitVec.ofNat 8 v :: leBytes n (v / 256)

/-- Bytes read as one little-endian natural, `sum over k of s[k] * 256^k`: `MemRead` (R8). -/
def leNat : List Byte → Nat
  | [] => 0
  | b :: bs => b.toNat + 256 * leNat bs

/-- `u16le(v)`, used only for `v ≤ 65535` (R7). -/
def u16le (v : Nat) : List Byte := leBytes 2 v

/-- `u32le(v)` of a 32-bit value (R7). -/
def u32le (v : Word) : List Byte := leBytes 4 v.toNat

/-! ### Encodings and what can be wrong with one -/

/-- The four record layouts. BM covers the two rows BM.RAW and BM.CMP, told apart by byte 0 (R75). Which layout a
buffer holds is not state (R36): a reader knows it from the buffer and from the command issued. -/
inductive RecordKind where
  | cblk | bm | bmx | metaRec
  deriving DecidableEq, Repr

/-- What an `Instr` is encoded as: a command word, or the bytes of a record of a known layout. -/
inductive Encoding where
  | command (w : Word)
  | record (kind : RecordKind) (bytes : List Byte)
  deriving DecidableEq, Repr

/-- Why a decoding is refused. -/
inductive DecodeError where
  /-- `w[31:8] != 0` (R73). `opc` is `w[7:0]`, what `ERR.OP` records (R178). -/
  | reservedBits (opc : Byte)
  /-- OPC in `0x07 .. 0x0E` or `0x10 .. 0xFF` (R73). -/
  | unknownOpcode (opc : Byte)
  /-- Fewer bytes than the layout's header, or more than META's sixteen. -/
  | headerLength
  /-- A tag byte in `0x02 .. 0xFF`, which BMENC never writes (R79). -/
  | reservedTag (tag : Byte)
  /-- A length field that is not the number of data bytes that follow (R74, R75). -/
  | lengthField
  /-- A payload length the records do not allow (R74 to R76, R80). -/
  | payloadLength
  deriving DecidableEq, Repr

/-- Decoded, or refused by name. -/
inductive Decoded (α : Type) where
  | ok (i : α)
  | error (e : DecodeError)
  deriving DecidableEq, Repr

/-- What was decoded, if anything. -/
def Decoded.toOption {α : Type} : Decoded α → Option α
  | .ok i => some i
  | .error _ => none

/-! ### Decoding -/

/-- Field OPC, bits 7:0 of a command word (R70). -/
def opcField (w : Word) : Byte := w.extractLsb' 0 8

/-- Field ZERO, bits 31:8 of a command word (R70). -/
def zeroField (w : Word) : BitVec 24 := w.extractLsb' 8 24

/-- The opcode map (R72). -/
def decodeOpc (opc : Byte) : Decoded Instr :=
  match opc.toNat with
  | 0x00 => .ok .nop
  | 0x01 => .ok .pack
  | 0x02 => .ok .compress
  | 0x03 => .ok .select
  | 0x04 => .ok .framebm
  | 0x05 => .ok .framebmx
  | 0x06 => .ok .framemeta
  | 0x0F => .ok .reset
  | _ => .error (.unknownOpcode opc)

/-- Decoding a command word: reserved bits first, then the opcode (R71, R180). The test of FAULT that stands
before them in R71 is `Machine.execCommand`'s. -/
def decodeCommand (w : Word) : Decoded Instr :=
  if zeroField w ≠ 0 then .error (.reservedBits (opcField w)) else decodeOpc (opcField w)

/-- A length field and the data it counts: `u16le(L) ‖ data` with `L = len(data)` (R74). -/
def decodeCounted : List Byte → Decoded (List Byte)
  | b0 :: b1 :: data => if leNat [b0, b1] = data.length then .ok data else .error .lengthField
  | _ => .error .headerLength

/-- A BM container by its tag (R75, R79). -/
def decodeBm : List Byte → Decoded Bm
  | [] => .error .headerLength
  | t :: rest =>
    if t = 0x00 then .ok (.raw rest)
    else if t = 0x01 then
      match decodeCounted rest with
      | .ok data => .ok (.cmp data)
      | .error e => .error e
    else .error (.reservedTag t)

/-- The first four bytes as a 32-bit field, and the bytes after them (R76, R77). -/
def takeU32 : List Byte → Option (Word × List Byte)
  | b0 :: b1 :: b2 :: b3 :: rest => some (BitVec.ofNat 32 (leNat [b0, b1, b2, b3]), rest)
  | _ => none

/-- The record `BM.RAW` or `BM.CMP` of a BM container. -/
def Bm.toInstr : Bm → Instr
  | .raw bytes => .bmRaw bytes
  | .cmp data => .bmCmp data

/-- The fields of a record of layout `kind`, before the payload's length is checked (R74 to R77). -/
def decodeFields (kind : RecordKind) (bytes : List Byte) : Decoded Instr :=
  match kind with
  | .cblk =>
    match decodeCounted bytes with
    | .ok data => .ok (.cblk data)
    | .error e => .error e
  | .bm =>
    match decodeBm bytes with
    | .ok bm => .ok bm.toInstr
    | .error e => .error e
  | .bmx =>
    match takeU32 bytes with
    | none => .error .headerLength
    | some (width, rest) =>
      match takeU32 rest with
      | none => .error .headerLength
      | some (height, body) =>
        match decodeBm body with
        | .ok bm => .ok (.bmx width height bm)
        | .error e => .error e
  | .metaRec =>
    match takeU32 bytes with
    | none => .error .headerLength
    | some (width, r1) =>
      match takeU32 r1 with
      | none => .error .headerLength
      | some (height, r2) =>
        match takeU32 r2 with
        | none => .error .headerLength
        | some (rate, r3) =>
          match takeU32 r3 with
          | some (count, []) => .ok (.metaRec width height rate count)
          | _ => .error .headerLength

/-- A record of layout `kind`, its payload length checked. The machine itself reads no record (R4: "no decoder is
specified"); this reads back the layouts it writes (log entry 2). -/
def decodeRecord (kind : RecordKind) (bytes : List Byte) : Decoded Instr :=
  match decodeFields kind bytes with
  | .ok i => if i.wellFormed then .ok i else .error .payloadLength
  | .error e => .error e

/-- The decoder, total on every command word and on any bytes. -/
def decode : Encoding → Decoded Instr
  | .command w => decodeCommand w
  | .record kind bytes => decodeRecord kind bytes

/-! ### Encoding -/

/-- The bytes of a BM container (R75). -/
def encodeBm : Bm → List Byte
  | .raw bytes => 0x00#8 :: bytes
  | .cmp data => 0x01#8 :: (u16le data.length ++ data)

/-- The command word of R72, or the record's layout and bytes (R74 to R77). -/
def encode : Instr → Encoding
  | .nop => .command 0x00000000#32
  | .pack => .command 0x00000001#32
  | .compress => .command 0x00000002#32
  | .select => .command 0x00000003#32
  | .framebm => .command 0x00000004#32
  | .framebmx => .command 0x00000005#32
  | .framemeta => .command 0x00000006#32
  | .reset => .command 0x0000000F#32
  | .cblk data => .record .cblk (u16le data.length ++ data)
  | .bmRaw raw => .record .bm (encodeBm (.raw raw))
  | .bmCmp data => .record .bm (encodeBm (.cmp data))
  | .bmx width height bm => .record .bmx (u32le width ++ u32le height ++ encodeBm bm)
  | .metaRec width height rate count =>
    .record .metaRec (u32le width ++ u32le height ++ u32le rate ++ u32le count)

/-- The bytes that stand in a buffer for a record; a command word stands in none. -/
def recordBytes (i : Instr) : List Byte :=
  match encode i with
  | .command _ => []
  | .record _ bytes => bytes

/-- A command's word; a record has none. -/
def commandWord? (i : Instr) : Option Word :=
  match encode i with
  | .command w => some w
  | .record _ _ => none

/-! ### Register offsets -/

/-- The byte offset of a register (R20). -/
def Reg.offset : Reg → Nat
  | .width => 0x00
  | .height => 0x04
  | .frate => 0x08
  | .fcount => 0x0C
  | .cmd => 0x10
  | .status => 0x14
  | .err => 0x18
  | .tag => 0x1C
  | .rawlen => 0x20
  | .cmplen => 0x24
  | .outlen => 0x28

/-- The register at a byte offset; `none` where the offset is reserved or no multiple of 4 (R20, R32). -/
def Reg.at? (offset : Nat) : Option Reg :=
  match offset with
  | 0x00 => some .width
  | 0x04 => some .height
  | 0x08 => some .frate
  | 0x0C => some .fcount
  | 0x10 => some .cmd
  | 0x14 => some .status
  | 0x18 => some .err
  | 0x1C => some .tag
  | 0x20 => some .rawlen
  | 0x24 => some .cmplen
  | 0x28 => some .outlen
  | _ => none

/-! ### The host's view of the opcode table -/

/-- The smallest BM container with tag byte `t` and zeros after it: one raw byte for tag 0 (the smallest BM
container is 2 bytes, R142), a zero length field for any other tag. -/
def tableRecordBytes (t : Byte) : List Byte :=
  if t = 0x00 then [t, 0x00] else [t, 0x00, 0x00]

/-- What the decoder reads from a table row's bits: 32 bits are a command word, 8 bits the tag byte of a BM
record followed by zeros. The table gives the rows CBLK, BMX and META no fixed bits (log entry 4). -/
def decodeTableWord (nbits w : Nat) : Option Instr :=
  if nbits = 32 then (decodeCommand (BitVec.ofNat 32 w)).toOption
  else if nbits = 8 then (decodeRecord .bm (tableRecordBytes (BitVec.ofNat 8 w))).toOption
  else none

end Sys2Proof
end

