-- ==== Sys2Proof/Machine/State.lean ====
section
/-! DEFINITION. The state of BMENC (10_state.md R20 to R42) as plain data, the reasons a step can stop, and the
state after reset (R39). -/

namespace Sys2Proof.Machine

/-- The pixel space PIX (R33): the cells written since reset, as (index, bit) pairs, true = 1 = a white pixel.
Canonical form: indices strictly rising. A cell that is not listed holds `⊥`. -/
abbrev Memory := List (Nat × Bool)

/-- The six latched faults (R171). Taking one is a NEXT state (R172), not an end of the run. -/
inductive FaultCode where
  | eFormat | eDim | eCap | eSeq | eLen | eCmd
  deriving DecidableEq, Repr

/-- What the last host transaction returned (R161, column "result"). The host's view, not the block's state. -/
inductive Reply where
  /-- A write or a reset returns nothing. -/
  | none
  /-- A register read returns 32 bits. -/
  | word (v : Word)
  /-- A buffer read returns 8 bits. -/
  | byte (b : Byte)
  deriving DecidableEq, Repr

/-- Why the model stops with a fault: an access the spec says is no transaction of the interface. -/
inductive Fault where
  /-- A register access at an offset that is not a multiple of 4: "not a transaction the interface has" (R56).
  Raised by `execRegRead` and `execRegWrite`. Safe: the model stops where the spec has no step (log entry 7). -/
  | noRegisterAt (offset : Nat)
  /-- A pixel write at an index `i ≥ PIX_CELLS`: "not a transaction the interface has" (R164). Raised by
  `execPixWrite`. Safe: the model stops where the spec has no step (log entry 7). -/
  | noPixelCell (cell : Nat)
  deriving DecidableEq, Repr

/-- Why the model refuses. -/
inductive Refusal where
  /-- An instruction that has no meaning yet, by its mnemonic. No arm of `exec` answers it. Safe. -/
  | notModelled (mnemonic : String)
  /-- A record whose payload length its layout does not allow (R7: `u16le` is not "defined outside its range";
  R75, R80). Raised by the meanings of CBLK, BM.RAW, BM.CMP and BMX on an ill-formed operand, never on a
  well-formed one; no host transaction reaches it. Safe: BMENC never writes such a record (log entry 2). -/
  | illFormedRecord (mnemonic : String)
  deriving DecidableEq, Repr

/-- The state of one BMENC. A valid flag and its result are one piece of state (R30: "A model may hold each as an
optional value and derive the flag"): RAWV, CMPV, TAGV and OUTV are `isSome` of `raw`, `cmp`, `tag` and `out`
(Machine/Flags.lean). STATUS and TAG are views of these (R25, R27). CMD stores nothing (R24). -/
structure State where
  /-- WIDTH, 0x00 (R21). -/
  width : Word
  /-- HEIGHT, 0x04 (R21). -/
  height : Word
  /-- FRATE, 0x08 (R22). -/
  frate : Word
  /-- FCOUNT, 0x0C (R23). -/
  fcount : Word
  /-- Flag FAULT, STATUS bit 4 (R25, R30). -/
  fault : Bool
  /-- ERR, 0x18: CODE in bits 7:0, OP in bits 15:8 (R26). -/
  err : Word
  /-- The tag bit `T` with its flag TAGV: `none` is TAGV = 0, when `T` reads 0 (R27, R30). -/
  tag : Option Bool
  /-- RAWLEN, 0x20 (R28). -/
  rawlen : Word
  /-- CMPLEN, 0x24 (R29). -/
  cmplen : Word
  /-- OUTLEN, 0x28 (R31). -/
  outlen : Word
  /-- The pixel space PIX (R33). -/
  pix : Memory
  /-- The raw buffer with its flag RAWV: `none` is `⊥` (R34). -/
  raw : Option (List Byte)
  /-- The compressed buffer with its flag CMPV: `none` is `⊥` (R35). -/
  cmp : Option (List Byte)
  /-- The output buffer with its flag OUTV: `none` is `⊥` (R36). -/
  out : Option (List Byte)
  /-- THE MODEL'S: the OPEN parameters of this instance, which no step changes (R5, R201; log entry 1). -/
  params : Config.Params
  /-- THE MODEL'S: the transactions the host will issue, in order (R60); "the next instruction in a model is the
  next host transaction" (R40; log entry 5). -/
  host : List Txn
  /-- THE MODEL'S: what the last transaction returned to the host (R161; log entry 6). -/
  reply : Reply
  /-- THE MODEL'S: how many unspecified bytes have been read, the index of the next free byte (R165; log entry
  3). -/
  draws : Nat
  deriving DecidableEq, Repr

/-- The state after reset (R39): "No reset value is left unspecified." The last four fields are the model's own
(log entries 1, 3, 5, 6). -/
def State.reset : State where
  width := 0
  height := 0
  frate := 0
  fcount := 0
  fault := false
  err := 0
  tag := none
  rawlen := 0
  cmplen := 0
  outlen := 0
  pix := []
  raw := none
  cmp := none
  out := none
  params := Config.Params.open
  host := []
  reply := .none
  draws := 0

end Sys2Proof.Machine
end

