-- ==== Sys2Proof/Machine/Flags.lean ====
section
/-! DEFINITION. The five flags (10_state.md R30) and the read-only registers made of fields: STATUS (R25), ERR
(R26, R172), TAG (R27). -/

namespace Sys2Proof.Machine

/-- RAWV: `RAW != ⊥` (R30). -/
def State.rawv (s : State) : Bool := s.raw.isSome

/-- CMPV: `CMP != ⊥` (R30). -/
def State.cmpv (s : State) : Bool := s.cmp.isSome

/-- TAGV: the tag has been chosen (R30). -/
def State.tagv (s : State) : Bool := s.tag.isSome

/-- OUTV: `OUT != ⊥` (R30). -/
def State.outv (s : State) : Bool := s.out.isSome

/-- The tag bit `T`, 0 whenever TAGV = 0 (R27). -/
def State.tagBit (s : State) : Bool := s.tag.getD false

/-- STATUS: bits 0 to 4 are RAWV, CMPV, TAGV, OUTV, FAULT; bits 31:5 read as 0 (R25). -/
def State.statusWord (s : State) : Word :=
  0#27 ++ BitVec.ofBool s.fault ++ BitVec.ofBool s.outv ++ BitVec.ofBool s.tagv ++ BitVec.ofBool s.cmpv
    ++ BitVec.ofBool s.rawv

/-- TAG: bit 0 is `T`, bits 31:1 read as 0 (R27). -/
def State.tagWord (s : State) : Word := 0#31 ++ BitVec.ofBool s.tagBit

/-- The tag byte `zext_8(T)` of a container (R27, R141). -/
def tagByte (t : Bool) : Byte := if t then 0x01 else 0x00

/-- `CODE(F)` (R171). -/
def FaultCode.code : FaultCode → Byte
  | .eFormat => 1
  | .eDim => 2
  | .eCap => 3
  | .eSeq => 4
  | .eLen => 5
  | .eCmd => 6

/-- `ERR <- (op * 256) + CODE(F)`: CODE in bits 7:0, OP in bits 15:8, bits 31:16 zero (R26, R172). -/
def errWord (f : FaultCode) (op : Byte) : Word := BitVec.ofNat 32 (op.toNat * 256 + f.code.toNat)

end Sys2Proof.Machine
end

