-- ==== Sys2Proof/Machine/Operands.lean ====
section
/-! DEFINITION. The implicit operands of the commands (30_encoding.md R78) and what the operations compute from
them: the sizes of PACK (R103), the packed bytes (R104, R105), the sizes the selector compares (R131), the tagged
payload of the framer (R141), and the parameters as an instance has them (R5). -/

namespace Sys2Proof.Machine

/-! ### Parameters of the instance -/

/-- `compress` of this instance: its known values, and the opaque function everywhere else (R121; log entry 1). -/
def State.compress (s : State) (bytes : List Byte) : List Byte :=
  match s.params.known.lookup bytes with
  | some data => data
  | none => Config.compress Config.windowBits Config.lookaheadBits bytes

/-- `RAW_LIMIT = min(MAX_RAW, 2^32 - 10)` (R5). -/
def State.rawLimit (s : State) : Nat :=
  match s.params.maxRaw with
  | none => Config.rawCeiling
  | some m => min m.val Config.rawCeiling

/-- `PIX_CELLS = 8 * RAW_LIMIT` (R5). -/
def State.pixCells (s : State) : Nat := 8 * s.rawLimit

/-! ### PIX -/

/-- Cell `i`: 1 or 0 if it was written, `none` = `⊥` if not (R33). -/
def Memory.read (m : Memory) (i : Nat) : Option Bool := m.lookup i

/-- Write cell `i`, keeping the indices strictly rising. -/
def Memory.write : Memory → Nat → Bool → Memory
  | [], i, b => [(i, b)]
  | (j, c) :: rest, i, b =>
    if i < j then (i, b) :: (j, c) :: rest
    else if i = j then (i, b) :: rest
    else (j, c) :: Memory.write rest i b

/-- The canonical form of PIX: indices strictly rising, so that equal pixel spaces are equal lists. -/
abbrev Memory.wf (m : Memory) : Prop := m.Pairwise (fun a b => a.1 < b.1)

/-! ### PACK -/

/-- `stride = ceil8(REG[WIDTH])`, in the naturals (R103). -/
def State.stride (s : State) : Nat := ceil8 s.width.toNat

/-- `N = stride * REG[HEIGHT]`, in the naturals (R103). -/
def State.rawBytes (s : State) : Nat := s.stride * s.height.toNat

/-- `W * H`, the number of pixel cells the image takes (R104). -/
def State.pixelCount (s : State) : Nat := s.width.toNat * s.height.toNat

/-- No cell `i < W*H` holds `⊥` (R104, R107). -/
def State.imageComplete (s : State) : Bool := (List.range s.pixelCount).all fun i => (s.pix.read i).isSome

/-- The packed bit of a cell: `NOT p` (R101). A cell that holds `⊥` has none; PACK asks for a cell's bit only
after `imageComplete` (R107), so the last case is never used by a command. -/
def pixelBit : Option Bool → Bool
  | some p => !p
  | none => false

/-- Lane `j` of byte `k` of row `y`: pixel `x = 8k + j` inverted, or the padding bit where `x ≥ W` (R104, R105,
R109). -/
def State.laneBit (s : State) (y k j : Nat) : Bool :=
  if 8 * k + j < s.width.toNat then pixelBit (s.pix.read (y * s.width.toNat + (8 * k + j))) else Config.padBit

/-- The place of lane `j` in its byte (R105). -/
def lanePos (j : Nat) : Nat :=
  match Config.bitOrder with
  | .lsbFirst => j
  | .msbFirst => 7 - j

/-- A byte from its eight lanes: the sum of `b * 2^j` (R104). -/
def packByte (lane : Nat → Bool) : Byte :=
  BitVec.ofNat 8 ((List.range 8).map fun j => (lane j).toNat * 2 ^ lanePos j).sum

/-- The `N` bytes PACK writes: byte `y*stride + k` is byte `k` of row `y` (R104). -/
def State.packed (s : State) : List Byte :=
  (List.range s.rawBytes).map fun i => packByte (s.laneBit (i / s.stride) (i % s.stride))

/-! ### SELECT -/

/-- `size_c = CMPLEN + C_OVH`, in the naturals (R131, R132). -/
def State.sizeC (s : State) : Nat := s.cmplen.toNat + Config.cOvh

/-- `size_r = RAWLEN + R_OVH`, in the naturals (R131, R132). -/
def State.sizeR (s : State) : Nat := s.rawlen.toNat + Config.rOvh

/-! ### FRAMEBM and FRAMEBMX -/

/-- `payload`: CMP if `T` = 1, RAW if `T` = 0 (R141); `none` where TAGV = 0, or where the buffer is `⊥`, which
R38 rules out when TAGV = 1 (log entry 9). -/
def State.payload (s : State) : Option (List Byte) :=
  match s.tag with
  | none => none
  | some true => s.cmp
  | some false => s.raw

/-- `bm = [zext_8(T)] ‖ payload` (R141). -/
def State.bm (s : State) : Option (List Byte) := s.payload.map (tagByte s.tagBit :: ·)

/-! ### Host reads -/

/-- The content of a byte space, `none` = `⊥` (R50). -/
def State.buffer (s : State) : Space → Option (List Byte)
  | .raw => s.raw
  | .cmp => s.cmp
  | .out => s.out

/-- What a register read returns (R162). -/
def State.readReg (s : State) : Reg → Word
  | .width => s.width
  | .height => s.height
  | .frate => s.frate
  | .fcount => s.fcount
  | .cmd => 0
  | .status => s.statusWord
  | .err => s.err
  | .tag => s.tagWord
  | .rawlen => s.rawlen
  | .cmplen => s.cmplen
  | .outlen => s.outlen

end Sys2Proof.Machine
end

