-- ==== Sys2Proof/Machine/Ops.lean ====
section
/-! DEFINITION. The named operations over the state: discarding results (10_state.md R37), writing a result and
discarding everything downstream of it (R30), taking a fault (60_exceptions.md R172), the fault lock (R174), and
reset (R200). -/

namespace Sys2Proof.Machine

/-! ### Discarding results, downstream first (R30, R37) -/

/-- `OUT <- ⊥ ; OUTV <- 0 ; REG[OUTLEN] <- 0`. -/
def State.dropOut (s : State) : State := { s with out := none, outlen := 0 }

/-- `T <- 0 ; TAGV <- 0`, and OUT. -/
def State.dropTag (s : State) : State := { s.dropOut with tag := none }

/-- `CMP <- ⊥ ; CMPV <- 0 ; REG[CMPLEN] <- 0`, and TAG and OUT. -/
def State.dropCmp (s : State) : State := { s.dropTag with cmp := none, cmplen := 0 }

/-- `RAW <- ⊥ ; RAWV <- 0 ; REG[RAWLEN] <- 0`, and CMP, TAG and OUT: all four results. -/
def State.dropRaw (s : State) : State := { s.dropCmp with raw := none, rawlen := 0 }

/-! ### Writing a result -/

/-- `RAW <- bytes`, its length and flag; CMP, TAG and OUT cleared (R104). -/
def State.setRaw (bytes : List Byte) (s : State) : State :=
  { s.dropCmp with raw := some bytes, rawlen := BitVec.ofNat 32 bytes.length }

/-- `CMP <- bytes`, its length and flag; TAG and OUT cleared (R122). -/
def State.setCmp (bytes : List Byte) (s : State) : State :=
  { s.dropTag with cmp := some bytes, cmplen := BitVec.ofNat 32 bytes.length }

/-- `T <- t ; TAGV <- 1`; OUT cleared (R131). -/
def State.setTag (t : Bool) (s : State) : State := { s.dropOut with tag := some t }

/-- `OUT <- bytes`, its length and flag (R142, R144, R146). -/
def State.setOut (bytes : List Byte) (s : State) : State :=
  { s with out := some bytes, outlen := BitVec.ofNat 32 bytes.length }

/-! ### Faults -/

/-- `raise F(op)`: ERR and FAULT written, all four results discarded; WIDTH, HEIGHT, FRATE, FCOUNT and PIX keep
their values (R172). There is no handler and no return (R172, R182). -/
def State.raise (f : FaultCode) (op : Byte) (s : State) : State :=
  { s.dropRaw with err := errWord f op, fault := true }

/-- The fault lock: while FAULT = 1 the operation is ignored (R174). -/
def unlessFaulted (k : State → State) (s : State) : State := if s.fault then s else k s

/-! ### Reset -/

/-- Every piece of state at its reset value (R39, R167, R200). The parameters are not state (R201); the host's
transactions, its last reply and the count of free bytes are the model's own fields and no part of the block. -/
def State.hwReset (s : State) : State :=
  { State.reset with params := s.params, host := s.host, reply := s.reply, draws := s.draws }

end Sys2Proof.Machine
end

