-- ==== Sys2Proof/Machine/Compressor.lean ====
section
/-! DEFINITION. The compressor interface: COMPRESS (41_compressor_interface.md R122). -/

namespace Sys2Proof.Machine

/-- COMPRESS on a block that is not faulted: `E_SEQ` without a RAW, `E_LEN` where the length does not fit a u16,
else the Compressed Block into CMP (R122 to R124). -/
def compressOp (s : State) : State :=
  match s.raw with
  | none => s.raise .eSeq 0x02
  | some raw =>
    if Config.lenMax < (s.compress raw).length then s.raise .eLen 0x02
    else s.setCmp (u16le (s.compress raw).length ++ s.compress raw)

/-- COMPRESS (R122), ignored when FAULT = 1 (R174). -/
def execCompress (s : State) : Host.Outcome State Fault Refusal := .next (unlessFaulted compressOp s)

end Sys2Proof.Machine
end

