-- ==== Sys2Proof/Machine/Control.lean ====
section
/-! DEFINITION. NOP and RESET (44_control.md R166, R167). -/

namespace Sys2Proof.Machine

/-- NOP: nothing, and no flag is cleared (R166). -/
def execNop (s : State) : Host.Outcome State Fault Refusal := .next s

/-- RESET: every piece of state at its reset value, FAULT included; the one command accepted when FAULT = 1
(R167, R174). -/
def execReset (s : State) : Host.Outcome State Fault Refusal := .next s.hwReset

end Sys2Proof.Machine
end

