-- ==== Sys2Proof/Machine/Encoder.lean ====
section
/-! DEFINITION. The bitmap encoder: PACK (40_encoder.md R104). -/

namespace Sys2Proof.Machine

/-- PACK on a block that is not faulted: `E_DIM`, then `E_CAP`, then `E_FORMAT`, then the packed bytes into RAW
(R102 to R104, R107, R180). -/
def packOp (s : State) : State :=
  if s.width = 0#32 ∨ s.height = 0#32 then s.raise .eDim 0x01
  else if s.rawLimit < s.rawBytes then s.raise .eCap 0x01
  else if s.imageComplete = false then s.raise .eFormat 0x01
  else s.setRaw s.packed

/-- PACK (R104), ignored when FAULT = 1 (R174). -/
def execPack (s : State) : Host.Outcome State Fault Refusal := .next (unlessFaulted packOp s)

end Sys2Proof.Machine
end

