-- ==== Sys2Proof/Machine/Framer.lean ====
section
/-! DEFINITION. The container framer: FRAMEBM, FRAMEBMX, FRAMEMETA (43_framer.md R142, R144, R146). -/

namespace Sys2Proof.Machine

/-- Writing a container whose body is the tagged payload: `E_SEQ` without one (R148), else `header ‖ bm` into
OUT (R142, R144). -/
def frameOp (op : Byte) (header : List Byte) (s : State) : State :=
  match s.bm with
  | none => s.raise .eSeq op
  | some bm => s.setOut (header ++ bm)

/-- FRAMEBM (R142), ignored when FAULT = 1 (R174). -/
def execFramebm (s : State) : Host.Outcome State Fault Refusal := .next (unlessFaulted (frameOp 0x04 []) s)

/-- FRAMEBMX: the header is `u32le(WIDTH) ‖ u32le(HEIGHT)` (R144). Ignored when FAULT = 1 (R174). -/
def execFramebmx (s : State) : Host.Outcome State Fault Refusal :=
  .next (unlessFaulted (frameOp 0x05 (u32le s.width ++ u32le s.height)) s)

/-- FRAMEMETA: the four data registers, no check (R146). Ignored when FAULT = 1 (R174). -/
def execFramemeta (s : State) : Host.Outcome State Fault Refusal :=
  .next (unlessFaulted (State.setOut (u32le s.width ++ u32le s.height ++ u32le s.frate ++ u32le s.fcount)) s)

end Sys2Proof.Machine
end

