-- ==== Sys2Proof/Machine/Records.lean ====
section
/-! DEFINITION. The record rows of the opcode table (30_encoding.md R74 to R77): each is the act of the sub-unit
that writes the record whole into its buffer, with the length, the flag and the clearing downstream that the
operation writing it performs (log entry 2). No command word names a record (R72, R73); COMPRESS, FRAMEBM,
FRAMEBMX and FRAMEMETA perform these acts. -/

namespace Sys2Proof.Machine

/-- Perform a record's write: refused by name where the layout does not allow the payload's length, ignored when
FAULT = 1 (R174). -/
def emitRecord (i : Instr) (mnemonic : String) (write : List Byte → State → State) (s : State) :
    Host.Outcome State Fault Refusal :=
  if i.wellFormed then .next (unlessFaulted (write (recordBytes i)) s) else .refused (.illFormedRecord mnemonic)

/-- CBLK: `u16le(L) ‖ data` into CMP (R74), as COMPRESS writes it (R122). -/
def execCblk (data : List Byte) (s : State) : Host.Outcome State Fault Refusal :=
  emitRecord (.cblk data) "CBLK" State.setCmp s

/-- BM.RAW: `0x00 ‖ raw` into OUT (R75), as FRAMEBM writes it for `T` = 0 (R142). -/
def execBmRaw (raw : List Byte) (s : State) : Host.Outcome State Fault Refusal :=
  emitRecord (.bmRaw raw) "BM.RAW" State.setOut s

/-- BM.CMP: `0x01 ‖ u16le(L) ‖ data` into OUT (R75), as FRAMEBM writes it for `T` = 1 (R142). -/
def execBmCmp (data : List Byte) (s : State) : Host.Outcome State Fault Refusal :=
  emitRecord (.bmCmp data) "BM.CMP" State.setOut s

/-- BMX: `u32le(width) ‖ u32le(height) ‖ bm` into OUT (R76), as FRAMEBMX writes it (R144). -/
def execBmx (width height : Word) (bm : Bm) (s : State) : Host.Outcome State Fault Refusal :=
  emitRecord (.bmx width height bm) "BMX" State.setOut s

/-- META: four little-endian fields into OUT (R77), as FRAMEMETA writes it (R146). -/
def execMetaRec (width height rate count : Word) (s : State) : Host.Outcome State Fault Refusal :=
  emitRecord (.metaRec width height rate count) "META" State.setOut s

end Sys2Proof.Machine
end

