-- ==== Sys2Proof/Machine/Selector.lean ====
section
/-! DEFINITION. The format selector: SELECT (42_selector.md R131). -/

namespace Sys2Proof.Machine

/-- SELECT on a block that is not faulted: `E_SEQ` unless RAW and CMP are valid, else `T` by the strict
comparison of the two sizes, a tie giving 0 (R131 to R133). -/
def selectOp (s : State) : State :=
  if s.rawv = false ∨ s.cmpv = false then s.raise .eSeq 0x03
  else s.setTag (decide (s.sizeC < s.sizeR))

/-- SELECT (R131), ignored when FAULT = 1 (R174). -/
def execSelect (s : State) : Host.Outcome State Fault Refusal := .next (unlessFaulted selectOp s)

end Sys2Proof.Machine
end

