-- ==== Sys2Proof/Machine/Dispatch.lean ====
section
/-! DEFINITION. Which meaning each instruction has: one arm per row of spec/opcode_table.json. -/

namespace Sys2Proof.Machine

def exec (i : Instr) (s : State) : Host.Outcome State Fault Refusal :=
  match i with
  | .nop => Sys2Proof.Machine.execNop s
  | .pack => Sys2Proof.Machine.execPack s
  | .compress => Sys2Proof.Machine.execCompress s
  | .select => Sys2Proof.Machine.execSelect s
  | .framebm => Sys2Proof.Machine.execFramebm s
  | .framebmx => Sys2Proof.Machine.execFramebmx s
  | .framemeta => Sys2Proof.Machine.execFramemeta s
  | .reset => Sys2Proof.Machine.execReset s
  | .cblk data => Sys2Proof.Machine.execCblk data s
  | .bmRaw raw => Sys2Proof.Machine.execBmRaw raw s
  | .bmCmp data => Sys2Proof.Machine.execBmCmp data s
  | .bmx width height bm => Sys2Proof.Machine.execBmx width height bm s
  | .metaRec width height rate count => Sys2Proof.Machine.execMetaRec width height rate count s

end Sys2Proof.Machine
end

