-- ==== Sys2Proof/Machine/HostPort.lean ====
section
/-! DEFINITION. The host interface: the five transactions (44_control.md R161 to R165, 70_reset_and_hazards.md
R200), command execution (R160, R71), and the state in which the next transaction runs a given instruction. -/

namespace Sys2Proof.Machine

/-- The one word a faulted block accepts (R71, R174). -/
def resetWord : Word := 0x0000000F

/-- Command execution: the word written to CMD is decoded in the order of R71 and the operation runs to its end
or to its fault within the step (R160). -/
def execCommand (w : Word) (s : State) : Host.Outcome State Fault Refusal :=
  if s.fault = true ∧ w ≠ resetWord then .next s
  else
    match decodeCommand w with
    | .error _ => .next (s.raise .eCmd (opcField w))
    | .ok i => exec i s

/-- Register read: no state changes; a reserved offset reads as 0 (R162, R32). -/
def execRegRead (offset : Nat) (s : State) : Host.Outcome State Fault Refusal :=
  if offset % 4 = 0 then .next { s with reply := .word (((Reg.at? offset).map s.readReg).getD 0) }
  else .fault (.noRegisterAt offset)

/-- The effect of a write to a register other than CMD, when FAULT = 0 (R163, R37): read-only and reserved offsets
ignore it (R32). A write to CMD is `execCommand`'s and stores nothing (R24). -/
def writeReg (r : Option Reg) (v : Word) (s : State) : State :=
  match r with
  | some .width => { s.dropRaw with width := v }
  | some .height => { s.dropRaw with height := v }
  | some .frate => { s.dropOut with frate := v }
  | some .fcount => { s.dropOut with fcount := v }
  | some .cmd => s
  | some .status => s
  | some .err => s
  | some .tag => s
  | some .rawlen => s
  | some .cmplen => s
  | some .outlen => s
  | none => s

/-- Register write (R163): to CMD a command, else ignored when FAULT = 1, else the write and what it clears. -/
def execRegWrite (offset : Nat) (v : Word) (s : State) : Host.Outcome State Fault Refusal :=
  if offset % 4 = 0 then
    match Reg.at? offset with
    | some .cmd => execCommand v { s with reply := .none }
    | r => .next (unlessFaulted (writeReg r v) { s with reply := .none })
  else .fault (.noRegisterAt offset)

/-- Pixel write (R164): ignored when FAULT = 1, else the cell is written and all four results are cleared. -/
def execPixWrite (i : Nat) (b : Bool) (s : State) : Host.Outcome State Fault Refusal :=
  if i < s.pixCells then
    .next (unlessFaulted (fun t => { t.dropRaw with pix := t.pix.write i b }) { s with reply := .none })
  else .fault (.noPixelCell i)

/-- Buffer read (R165): the byte, or, in an invalid buffer or at or past its length, an unspecified byte, a fresh
free value at each read (log entry 3). -/
def execBufRead (sp : Space) (a : Nat) (s : State) : Host.Outcome State Fault Refusal :=
  match (s.buffer sp).bind (·[a]?) with
  | some b => .next { s with reply := .byte b }
  | none => .next { s with reply := .byte (Config.freeByte s.draws), draws := s.draws + 1 }

/-- Hardware reset, accepted in every state (R200). -/
def execHardReset (s : State) : Host.Outcome State Fault Refusal := .next { s.hwReset with reply := .none }

/-- One host transaction, one atomic step (R161, R10). -/
def execTxn (t : Txn) (s : State) : Host.Outcome State Fault Refusal :=
  match t with
  | .regRead offset => execRegRead offset s
  | .regWrite offset v => execRegWrite offset v s
  | .pixWrite i b => execPixWrite i b s
  | .bufRead sp a => execBufRead sp a s
  | .hardReset => execHardReset s

/-- The host's next transaction is a write of `w` to CMD. -/
def State.withCommand (w : Word) (s : State) : State := { s with host := .regWrite Reg.cmd.offset w :: s.host }

/-- The raw bytes that stand for RAW where a Compressed Block is staged. -/
def stagedRaw : List Byte := [0x00]

/-- The payload a BM container is framed from, and its tag, put in place (R141). -/
def State.withPayload (bm : Bm) (s : State) : State :=
  match bm with
  | .raw bytes => { s with tag := some false, raw := some bytes }
  | .cmp data => { s with tag := some true, cmp := some (u16le data.length ++ data) }

/-- `s`, made ready so that the very next step runs exactly `i` (log entry 4). A command is the next write to
CMD. A record is written by no command word of its own, so the inputs from which a command writes exactly that
record are put in place, FAULT is 0, and the next write to CMD is that command. -/
def State.stage (i : Instr) (s : State) : State :=
  match i with
  | .nop => s.withCommand 0x00000000
  | .pack => s.withCommand 0x00000001
  | .compress => s.withCommand 0x00000002
  | .select => s.withCommand 0x00000003
  | .framebm => s.withCommand 0x00000004
  | .framebmx => s.withCommand 0x00000005
  | .framemeta => s.withCommand 0x00000006
  | .reset => s.withCommand 0x0000000F
  | .cblk data =>
    { s with
      fault := false
      raw := some stagedRaw
      params := { s.params with known := (stagedRaw, data) :: s.params.known } }.withCommand 0x00000002
  | .bmRaw raw => ({ s with fault := false }.withPayload (.raw raw)).withCommand 0x00000004
  | .bmCmp data => ({ s with fault := false }.withPayload (.cmp data)).withCommand 0x00000004
  | .bmx width height bm =>
    ({ s with fault := false, width := width, height := height }.withPayload bm).withCommand 0x00000005
  | .metaRec width height rate count =>
    { s with
      fault := false
      width := width
      height := height
      frate := rate
      fcount := count }.withCommand 0x00000006

end Sys2Proof.Machine
end

