-- ==== Sys2Proof/Machine/Step.lean ====
section
/-! DEFINITION. One step: the next host transaction (10_state.md R40, 00_scope.md R10). -/

namespace Sys2Proof.Machine

/-- One step. With no transaction pending the block waits and nothing changes (R200: "waits for the host's first
transaction"). -/
def step (s : State) : Host.Outcome State Fault Refusal :=
  match s.host with
  | [] => .next s
  | t :: rest => execTxn t { s with host := rest }

/-- `s` with the instruction of a table row's bits put where the next step runs it: 32 bits are written to CMD by
the next transaction, 8 bits are the tag byte of a BM record, staged (log entry 4). -/
def State.withFetchWord (s : State) (nbits w : Nat) : State :=
  if nbits = 32 then s.withCommand (BitVec.ofNat 32 w)
  else
    match decodeTableWord nbits w with
    | some i => s.stage i
    | none => s.withCommand (BitVec.ofNat 32 w)

end Sys2Proof.Machine
end

