-- ==== Sys2Proof/Machine/Script.lean ====
section
/-! DEFINITION. The script notation and its pseudo-operations as lists of host transactions (30_encoding.md R81,
R82). -/

namespace Sys2Proof.Machine

/-- `WR <REG>, <value>`. -/
def Script.wr (r : Reg) (v : Word) : Txn := .regWrite r.offset v

/-- `RD <REG>`. -/
def Script.rd (r : Reg) : Txn := .regRead r.offset

/-- `CMD <MNEMONIC>`: `WR CMD, <command word of R72>`. A record has no command word and no line. -/
def Script.cmd (i : Instr) : List Txn := (commandWord? i).toList.map (Script.wr .cmd)

/-- `ROW <y>: <s>`: the pixels of row `y` of a `width`-wide image, true for `.` (white) and false for `#`. -/
def Script.row (width y : Nat) (pixels : List Bool) : List Txn :=
  pixels.zipIdx.map fun p => .pixWrite (y * width + p.2) p.1

/-- `ENCBM`: PACK, COMPRESS, SELECT, FRAMEBM. -/
def Script.encbm : List Txn :=
  Script.cmd .pack ++ Script.cmd .compress ++ Script.cmd .select ++ Script.cmd .framebm

/-- `ENCBMX`: PACK, COMPRESS, SELECT, FRAMEBMX. -/
def Script.encbmx : List Txn :=
  Script.cmd .pack ++ Script.cmd .compress ++ Script.cmd .select ++ Script.cmd .framebmx

/-- The length register of a byte space (R50). -/
def Space.lenReg : Space → Reg
  | .raw => .rawlen
  | .cmp => .cmplen
  | .out => .outlen

/-- `DUMP <SPACE>`, for a space whose length register reads `len`. -/
def Script.dump (sp : Space) (len : Nat) : List Txn :=
  Script.rd (Space.lenReg sp) :: (List.range len).map (Txn.bufRead sp)

end Sys2Proof.Machine
end

