-- ==== Sys2Proof/Safety.lean ====
section
/-! DEFINITION. What claims about BMENC are made in: the state invariants (10_state.md R26, R28, R29, R31, R33,
R38), a successful end (70_reset_and_hazards.md R211), and the named hypotheses on `compress`
(41_compressor_interface.md R125). -/

namespace Sys2Proof.Safety

open Sys2Proof.Machine

/-- A length register counts its buffer, and is 0 when the buffer is `⊥` (R28, R29, R31, R38.6). -/
def counts (len : Word) (buffer : Option (List Byte)) : Prop := len.toNat = (buffer.getD []).length

/-- The state invariants (R38, with those of R26, R28, R29, R31 and R33). -/
structure Inv (s : State) : Prop where
  /-- CMPV = 1 implies RAWV = 1 (R38.1). -/
  cmpNeedsRaw : s.cmpv = true → s.rawv = true
  /-- TAGV = 1 implies CMPV = 1 (R38.1). -/
  tagNeedsCmp : s.tagv = true → s.cmpv = true
  /-- RAW is the packing of the current image, whose cells are all written (R38.2). -/
  rawIsPacked : ∀ raw, s.raw = some raw →
    1 ≤ s.width.toNat ∧ 1 ≤ s.height.toNat ∧ s.rawBytes ≤ s.rawLimit ∧
      (∀ i, i < s.pixelCount → (s.pix.read i).isSome = true) ∧ raw = s.packed
  /-- CMP is the Compressed Block of the current RAW (R35, R38.3). -/
  cmpIsBlock : ∀ cmp, s.cmp = some cmp → ∃ raw, s.raw = some raw ∧
    (s.compress raw).length ≤ Config.lenMax ∧ cmp = u16le (s.compress raw).length ++ s.compress raw
  /-- `T` is the selector's choice for the current lengths (R38.4). -/
  tagIsChoice : ∀ t, s.tag = some t → (t = true ↔ s.cmplen.toNat + 2 < s.rawlen.toNat + 1)
  /-- FAULT = 1 implies all four valid flags are 0 (R38.5). -/
  faultClears : s.fault = true → s.raw = none ∧ s.cmp = none ∧ s.tag = none ∧ s.out = none
  /-- RAWLEN (R28). -/
  rawlenCounts : counts s.rawlen s.raw
  /-- CMPLEN (R29). -/
  cmplenCounts : counts s.cmplen s.cmp
  /-- OUTLEN (R31). -/
  outlenCounts : counts s.outlen s.out
  /-- FAULT = 1 exactly when ERR holds the word of some fault; else ERR is 0 (R26, R171, R172). -/
  errNamesFault : if s.fault = true then ∃ f op, s.err = errWord f op else s.err = 0
  /-- PIX is in its canonical form, so that equal pixel spaces are equal data. -/
  pixCanonical : Memory.wf s.pix
  /-- Every written cell is a cell of the pixel space (R33). -/
  pixInRange : ∀ i, (s.pix.read i).isSome = true → i < s.pixCells

/-- The end of a successful run: FAULT = 0 and OUTV = 1 (R211). -/
def successful (s : State) : Prop := s.fault = false ∧ s.outv = true

/-- `P_ROUNDTRIP` (R125), a hypothesis on a compression function, never a rule of the machine. -/
def pRoundtrip (compress : List Byte → List Byte) : Prop :=
  ∃ decompress : List Byte → List Byte, ∀ bytes, decompress (compress bytes) = bytes

/-- `P_ZEROS1000` (R125), a hypothesis on a compression function. -/
def pZeros1000 (compress : List Byte → List Byte) : Prop := (compress (List.replicate 1000 0)).length ≤ 996

/-- `P_RANDOM` of one buffer (R125): "A model must not assume it of every `s`". -/
def pRandom (compress : List Byte → List Byte) (bytes : List Byte) : Prop :=
  bytes.length + 1 ≤ (compress bytes).length + 4

end Sys2Proof.Safety
end

