-- ==== Sys2Proof/Certificates/Slice0/Obligations.lean ====
section
/-! DEFINITION. The statements for the provers. Each docstring names the rule of spec/ it formalises. A rule of this
spec that rests on one of the spec's own decisions (D1 to D30) is a rule all the same; where a clause rests on a
choice of the MODEL, the docstring names the log entry. -/

open Sys2Proof Sys2Proof.Machine Sys2Proof.Safety

/-! ### Encodings -/

/-- R72: the eight command words name the eight operations. -/
def Obligations.CommandWordsDecodeByTheOpcodeMap : Prop :=
  decodeCommand 0x00000000 = .ok .nop ∧ decodeCommand 0x00000001 = .ok .pack ∧
  decodeCommand 0x00000002 = .ok .compress ∧ decodeCommand 0x00000003 = .ok .select ∧
  decodeCommand 0x00000004 = .ok .framebm ∧ decodeCommand 0x00000005 = .ok .framebmx ∧
  decodeCommand 0x00000006 = .ok .framemeta ∧ decodeCommand 0x0000000F = .ok .reset

/-- R73, R178, with the entry of R172: a word with `w[31:8] != 0`, or with OPC in `0x07 .. 0x0E` or
`0x10 .. 0xFF`, raises `E_CMD` with `ERR.OP = w[7:0]`. -/
def Obligations.IllegalCommandWordTakesECmd : Prop :=
  ∀ (s : State) (w : Word) (rest : List Txn),
    s.host = .regWrite 0x10 w :: rest → s.fault = false →
    (w.extractLsb' 8 24 ≠ 0 ∨
      (0x07 ≤ (w.extractLsb' 0 8).toNat ∧ (w.extractLsb' 0 8).toNat ≤ 0x0E) ∨
      0x10 ≤ (w.extractLsb' 0 8).toNat) →
    step s = .next { s with
      host := rest, reply := .none, fault := true,
      err := BitVec.ofNat 32 ((w.extractLsb' 0 8).toNat * 256 + 6),
      raw := none, rawlen := 0, cmp := none, cmplen := 0, tag := none, out := none, outlen := 0 }

/-- R72, R74 to R77: decoding the encoding of a well-formed instruction gives it back, every payload byte and
every header field at every value. The reading of records is the model's (log entry 2). -/
def Obligations.DecodeOfEncodeGivesInstructionBack : Prop :=
  ∀ i : Instr, i.wellFormed = true → decode (encode i) = .ok i

/-- R71 to R79: an encoding has at most one meaning, and what decodes is well formed and is encoded by exactly the
bits that were decoded; so a word or a record outside the tables is refused. -/
def Obligations.EncodeOfDecodeGivesBitsBack : Prop :=
  ∀ (e : Encoding) (i : Instr), decode e = .ok i → encode i = e ∧ i.wellFormed = true

/-- R74 to R77: the byte layouts of the five records, written out. -/
def Obligations.RecordBytesFollowTheLayouts : Prop :=
  (∀ data : List Byte, data.length ≤ 65535 →
    recordBytes (.cblk data) =
      [BitVec.ofNat 8 data.length, BitVec.ofNat 8 (data.length / 256)] ++ data) ∧
  (∀ raw : List Byte, recordBytes (.bmRaw raw) = [0x00#8] ++ raw) ∧
  (∀ data : List Byte, data.length ≤ 65535 →
    recordBytes (.bmCmp data) =
      [0x01#8, BitVec.ofNat 8 data.length, BitVec.ofNat 8 (data.length / 256)] ++ data) ∧
  (∀ (w h : Word) (raw : List Byte),
    recordBytes (.bmx w h (.raw raw)) =
      [w.extractLsb' 0 8, w.extractLsb' 8 8, w.extractLsb' 16 8, w.extractLsb' 24 8,
       h.extractLsb' 0 8, h.extractLsb' 8 8, h.extractLsb' 16 8, h.extractLsb' 24 8] ++
      recordBytes (.bmRaw raw)) ∧
  (∀ (w h : Word) (data : List Byte), data.length ≤ 65535 →
    recordBytes (.bmx w h (.cmp data)) =
      [w.extractLsb' 0 8, w.extractLsb' 8 8, w.extractLsb' 16 8, w.extractLsb' 24 8,
       h.extractLsb' 0 8, h.extractLsb' 8 8, h.extractLsb' 16 8, h.extractLsb' 24 8] ++
      recordBytes (.bmCmp data)) ∧
  (∀ w h r c : Word,
    recordBytes (.metaRec w h r c) =
      [w.extractLsb' 0 8, w.extractLsb' 8 8, w.extractLsb' 16 8, w.extractLsb' 24 8,
       h.extractLsb' 0 8, h.extractLsb' 8 8, h.extractLsb' 16 8, h.extractLsb' 24 8,
       r.extractLsb' 0 8, r.extractLsb' 8 8, r.extractLsb' 16 8, r.extractLsb' 24 8,
       c.extractLsb' 0 8, c.extractLsb' 8 8, c.extractLsb' 16 8, c.extractLsb' 24 8])

/-! ### The step -/

/-- R160, R71: a write to CMD of a word that decodes to an instruction is one step, and that step is the
instruction's on the state after the transaction is taken from the host's list, a write returning nothing. In a
faulted block the instruction itself is the one that is ignored (R174). -/
def Obligations.StepRunsDecodedCommand : Prop :=
  ∀ (s : State) (w : Word) (rest : List Txn) (i : Instr),
    s.host = .regWrite 0x10 w :: rest → decodeCommand w = .ok i →
    step s = exec i { s with host := rest, reply := .none }

/-- The model's staging (log entry 4): after `stage i` the very next step runs exactly `i`, for the eight commands
and for the five records. -/
def Obligations.StepRunsStagedInstruction : Prop :=
  ∀ (i : Instr) (s : State), i.wellFormed = true →
    step (s.stage i) = exec i { s.stage i with host := s.host, reply := .none }

/-- R200 ("BMENC waits for the host's first transaction") as the model has it (log entry 5): with no transaction
pending nothing changes. -/
def Obligations.StepWithoutTransactionWaits : Prop :=
  ∀ s : State, s.host = [] → step s = .next s

/-! ### Reset -/

/-- R39: the value of every piece of state after reset. The model's own four fields (log entries 1, 3, 5, 6) are
not spoken of. -/
def Obligations.ResetStateHoldsResetValues : Prop :=
  State.reset.width = 0 ∧ State.reset.height = 0 ∧ State.reset.frate = 0 ∧ State.reset.fcount = 0 ∧
  State.reset.statusWord = 0 ∧ State.reset.fault = false ∧ State.reset.err = 0 ∧ State.reset.tagWord = 0 ∧
  State.reset.tag = none ∧
  State.reset.rawlen = 0 ∧ State.reset.cmplen = 0 ∧ State.reset.outlen = 0 ∧
  (∀ i, State.reset.pix.read i = none) ∧
  State.reset.raw = none ∧ State.reset.cmp = none ∧ State.reset.out = none

/-- R167, R200: in every state, faulted or not, RESET and hardware reset give every piece of state its reset
value; the parameters are not affected (R201). -/
def Obligations.ResetCommandAndHardwareResetRestoreEverything : Prop :=
  (∀ s : State, exec .reset s = .next { s with
    width := 0, height := 0, frate := 0, fcount := 0, fault := false, err := 0, tag := none,
    rawlen := 0, cmplen := 0, outlen := 0, pix := [], raw := none, cmp := none, out := none }) ∧
  (∀ (s : State) (rest : List Txn), s.host = .hardReset :: rest → step s = .next { s with
    host := rest, reply := .none,
    width := 0, height := 0, frate := 0, fcount := 0, fault := false, err := 0, tag := none,
    rawlen := 0, cmplen := 0, outlen := 0, pix := [], raw := none, cmp := none, out := none })

/-- R202: the outcome of each command issued straight after reset, by the words ERR and OUT then hold. -/
def Obligations.CommandsStraightAfterReset : Prop :=
  exec .nop State.reset = .next State.reset ∧
  exec .reset State.reset = .next State.reset ∧
  exec .framemeta State.reset =
    .next { State.reset with out := some (List.replicate 16 0), outlen := 16 } ∧
  exec .pack State.reset = .next { State.reset with fault := true, err := 0x00000102 } ∧
  exec .compress State.reset = .next { State.reset with fault := true, err := 0x00000204 } ∧
  exec .select State.reset = .next { State.reset with fault := true, err := 0x00000304 } ∧
  exec .framebm State.reset = .next { State.reset with fault := true, err := 0x00000404 } ∧
  exec .framebmx State.reset = .next { State.reset with fault := true, err := 0x00000504 }

/-! ### NOP -/

/-- R166: from any state `s`, NOP gives `s`. -/
def Obligations.NopChangesNothing : Prop :=
  ∀ s : State, exec .nop s = .next s

/-! ### PACK -/

/-- R102, R173, R175, R176, with the entry of R172 and the order of R180: PACK raises `E_DIM` on a zero dimension,
else `E_CAP` where `N > RAW_LIMIT`, else `E_FORMAT` where a needed cell holds `⊥`. -/
def Obligations.PackRaisesItsFaultsInOrder : Prop :=
  ∀ s : State, s.fault = false →
    ((s.width = 0#32 ∨ s.height = 0#32) →
      exec .pack s = .next { s with
        fault := true, err := 0x00000102,
        raw := none, rawlen := 0, cmp := none, cmplen := 0, tag := none, out := none, outlen := 0 }) ∧
    (s.width ≠ 0#32 → s.height ≠ 0#32 → s.rawLimit < (s.width.toNat + 7) / 8 * s.height.toNat →
      exec .pack s = .next { s with
        fault := true, err := 0x00000103,
        raw := none, rawlen := 0, cmp := none, cmplen := 0, tag := none, out := none, outlen := 0 }) ∧
    (s.width ≠ 0#32 → s.height ≠ 0#32 → (s.width.toNat + 7) / 8 * s.height.toNat ≤ s.rawLimit →
      (∃ i, i < s.width.toNat * s.height.toNat ∧ s.pix.read i = none) →
      exec .pack s = .next { s with
        fault := true, err := 0x00000101,
        raw := none, rawlen := 0, cmp := none, cmplen := 0, tag := none, out := none, outlen := 0 })

/-- R104 (with R101, R103, R105): PACK of a complete image within the capacity writes `N` bytes; bit `j` of byte
`y*stride + k` is the inverted pixel `x = 8k + j` of row `y`, and 0 where `x ≥ W`; RAWLEN is `N`; CMP, TAG and OUT
are cleared; nothing else changes. The place of a lane in its byte and the padding value are the spec's decisions
D4 and D5 (log entry 8). -/
def Obligations.PackWritesTheInvertedPackedImage : Prop :=
  ∀ s : State, s.fault = false → s.width ≠ 0#32 → s.height ≠ 0#32 →
    (s.width.toNat + 7) / 8 * s.height.toNat ≤ s.rawLimit →
    (∀ i, i < s.width.toNat * s.height.toNat → s.pix.read i ≠ none) →
    ∃ bytes : List Byte,
      exec .pack s = .next { s with
        raw := some bytes, rawlen := BitVec.ofNat 32 ((s.width.toNat + 7) / 8 * s.height.toNat),
        cmp := none, cmplen := 0, tag := none, out := none, outlen := 0 } ∧
      bytes.length = (s.width.toNat + 7) / 8 * s.height.toNat ∧
      ∀ y k j, y < s.height.toNat → k < (s.width.toNat + 7) / 8 → j < 8 →
        ∃ byte, bytes[y * ((s.width.toNat + 7) / 8) + k]? = some byte ∧
          byte.getLsbD j =
            (if 8 * k + j < s.width.toNat then
              decide (s.pix.read (y * s.width.toNat + (8 * k + j)) = some false) else false)

/-- R106.1: an all-white image packs to an all-zero buffer. -/
def Obligations.AllWhiteImagePacksToZeroBytes : Prop :=
  ∀ s : State, s.fault = false → s.width ≠ 0#32 → s.height ≠ 0#32 →
    (s.width.toNat + 7) / 8 * s.height.toNat ≤ s.rawLimit →
    (∀ i, i < s.width.toNat * s.height.toNat → s.pix.read i = some true) →
    ∃ t : State, exec .pack s = .next t ∧ t.fault = false ∧
      t.raw = some (List.replicate ((s.width.toNat + 7) / 8 * s.height.toNat) 0x00)

/-- R106.2: an all-black image packs to bytes `0xFF`, but for the last byte of each row when the width is not a
multiple of 8, which is `2^(W mod 8) - 1`. -/
def Obligations.AllBlackImagePacksToOnePixelBits : Prop :=
  ∀ s : State, s.fault = false → s.width ≠ 0#32 → s.height ≠ 0#32 →
    (s.width.toNat + 7) / 8 * s.height.toNat ≤ s.rawLimit →
    (∀ i, i < s.width.toNat * s.height.toNat → s.pix.read i = some false) →
    ∃ (t : State) (bytes : List Byte), exec .pack s = .next t ∧ t.fault = false ∧ t.raw = some bytes ∧
      ∀ y k, y < s.height.toNat → k < (s.width.toNat + 7) / 8 →
        bytes[y * ((s.width.toNat + 7) / 8) + k]? =
          some (if s.width.toNat % 8 = 0 ∨ k + 1 < (s.width.toNat + 7) / 8 then 0xFF
                else BitVec.ofNat 8 (2 ^ (s.width.toNat % 8) - 1))

/-- R108, R104 ("PIX cells at or above `W*H` are not read, whatever they hold"): two blocks with equal parameters,
WIDTH, HEIGHT and equal cells below `W*H` get equal RAW, RAWLEN and FAULT from PACK. -/
def Obligations.PackDependsOnlyOnTheImage : Prop :=
  ∀ s s' : State, s.fault = false → s'.fault = false → s.params = s'.params →
    s.width = s'.width → s.height = s'.height →
    (∀ i, i < s.width.toNat * s.height.toNat → s.pix.read i = s'.pix.read i) →
    ∃ t t' : State, exec .pack s = .next t ∧ exec .pack s' = .next t' ∧
      t.raw = t'.raw ∧ t.rawlen = t'.rawlen ∧ t.fault = t'.fault

/-! ### COMPRESS -/

/-- R122 (with R123, R124): COMPRESS raises `E_SEQ` when RAWV = 0 and `E_LEN` when the data is longer than 65535
bytes; else it writes `u16le(L) ‖ data` to CMP with CMPLEN = `L + 2`, clears TAG and OUT, and leaves RAW as it
is. -/
def Obligations.CompressWritesTheCompressedBlock : Prop :=
  ∀ s : State, s.fault = false →
    (s.raw = none →
      exec .compress s = .next { s with
        fault := true, err := 0x00000204,
        raw := none, rawlen := 0, cmp := none, cmplen := 0, tag := none, out := none, outlen := 0 }) ∧
    (∀ raw, s.raw = some raw → 65535 < (s.compress raw).length →
      exec .compress s = .next { s with
        fault := true, err := 0x00000205,
        raw := none, rawlen := 0, cmp := none, cmplen := 0, tag := none, out := none, outlen := 0 }) ∧
    (∀ raw, s.raw = some raw → (s.compress raw).length ≤ 65535 →
      exec .compress s = .next { s with
        cmp := some
          ([BitVec.ofNat 8 (s.compress raw).length, BitVec.ofNat 8 ((s.compress raw).length / 256)] ++
            s.compress raw),
        cmplen := BitVec.ofNat 32 ((s.compress raw).length + 2),
        tag := none, out := none, outlen := 0 })

/-! ### SELECT -/

/-- R131: SELECT raises `E_SEQ` unless RAWV = CMPV = 1; else `T` = 1 exactly when `CMPLEN + 2 < RAWLEN + 1` in the
naturals, TAGV = 1, and OUT is cleared; nothing else changes. -/
def Obligations.SelectComparesTheSizes : Prop :=
  ∀ s : State, s.fault = false →
    ((s.raw = none ∨ s.cmp = none) →
      exec .select s = .next { s with
        fault := true, err := 0x00000304,
        raw := none, rawlen := 0, cmp := none, cmplen := 0, tag := none, out := none, outlen := 0 }) ∧
    (s.raw ≠ none → s.cmp ≠ none →
      exec .select s = .next { s with
        tag := some (if s.cmplen.toNat + 2 < s.rawlen.toNat + 1 then true else false),
        out := none, outlen := 0 })

/-- R133: "When `size_c = size_r` the tag is 0." -/
def Obligations.SelectTieGivesTagZero : Prop :=
  ∀ s : State, s.fault = false → s.raw ≠ none → s.cmp ≠ none →
    s.cmplen.toNat + 2 = s.rawlen.toNat + 1 →
    exec .select s = .next { s with tag := some false, out := none, outlen := 0 }

/-- R134.1 and R134.2: SELECT, then FRAMEBM. A compressed container is at least 2 bytes shorter than the raw one
would have been; a raw container is at most 1 byte longer than the compressed one would have been. -/
def Obligations.ChosenContainerIsAtMostOneByteLonger : Prop :=
  ∀ (s : State) (raw cmp : List Byte), Inv s → s.fault = false → s.raw = some raw → s.cmp = some cmp →
    ∃ (t u : State) (bm : List Byte) (tag : Bool), exec .select s = .next t ∧ t.tag = some tag ∧
      exec .framebm t = .next u ∧ u.out = some bm ∧ u.outlen.toNat = bm.length ∧
      (tag = true → bm.length = 1 + cmp.length ∧ bm.length + 2 ≤ 1 + raw.length) ∧
      (tag = false → bm.length = 1 + raw.length ∧ bm.length ≤ (1 + cmp.length) + 1)

/-- R125 and 95_test_vectors.md S4: COMPRESS and then SELECT choose tag 1 for the all-zero buffer of 1000 bytes under
`P_ZEROS1000`, and tag 0 for a buffer that meets `P_RANDOM` (whose compressed data a u16 can count). -/
def Obligations.SelectorIsCorrectUnderTheNamedHypotheses : Prop :=
  ∀ (s : State) (raw : List Byte), s.fault = false → s.raw = some raw → s.rawlen.toNat = raw.length →
    (raw = List.replicate 1000 0 → pZeros1000 s.compress →
      ∃ c t : State, exec .compress s = .next c ∧ exec .select c = .next t ∧ t.tag = some true) ∧
    (pRandom s.compress raw → (s.compress raw).length ≤ 65535 →
      ∃ c t : State, exec .compress s = .next c ∧ exec .select c = .next t ∧ t.tag = some false)

/-! ### FRAMEBM, FRAMEBMX, FRAMEMETA -/

/-- R142 (with R141): FRAMEBM raises `E_SEQ` when TAGV = 0; else it writes `[zext_8(T)] ‖ payload` to OUT and
nothing else changes. That the payload's buffer is valid is R38's (log entry 9). -/
def Obligations.FramebmWritesTheBmContainer : Prop :=
  ∀ s : State, s.fault = false →
    (s.tag = none →
      exec .framebm s = .next { s with
        fault := true, err := 0x00000404,
        raw := none, rawlen := 0, cmp := none, cmplen := 0, tag := none, out := none, outlen := 0 }) ∧
    (∀ raw, s.tag = some false → s.raw = some raw →
      exec .framebm s = .next { s with
        out := some ([0x00] ++ raw), outlen := BitVec.ofNat 32 (1 + raw.length) }) ∧
    (∀ cmp, s.tag = some true → s.cmp = some cmp →
      exec .framebm s = .next { s with
        out := some ([0x01] ++ cmp), outlen := BitVec.ofNat 32 (1 + cmp.length) })

/-- R144 (with R141): FRAMEBMX raises `E_SEQ` when TAGV = 0; else it writes WIDTH and HEIGHT, each little-endian,
then `[zext_8(T)] ‖ payload`, and nothing else changes. That the payload's buffer is valid is R38's (log entry
9). -/
def Obligations.FramebmxWritesTheBmxContainer : Prop :=
  ∀ s : State, s.fault = false →
    (s.tag = none →
      exec .framebmx s = .next { s with
        fault := true, err := 0x00000504,
        raw := none, rawlen := 0, cmp := none, cmplen := 0, tag := none, out := none, outlen := 0 }) ∧
    (∀ raw, s.tag = some false → s.raw = some raw →
      exec .framebmx s = .next { s with
        out := some
          ([s.width.extractLsb' 0 8, s.width.extractLsb' 8 8, s.width.extractLsb' 16 8,
            s.width.extractLsb' 24 8, s.height.extractLsb' 0 8, s.height.extractLsb' 8 8,
            s.height.extractLsb' 16 8, s.height.extractLsb' 24 8] ++ ([0x00] ++ raw)),
        outlen := BitVec.ofNat 32 (8 + (1 + raw.length)) }) ∧
    (∀ cmp, s.tag = some true → s.cmp = some cmp →
      exec .framebmx s = .next { s with
        out := some
          ([s.width.extractLsb' 0 8, s.width.extractLsb' 8 8, s.width.extractLsb' 16 8,
            s.width.extractLsb' 24 8, s.height.extractLsb' 0 8, s.height.extractLsb' 8 8,
            s.height.extractLsb' 16 8, s.height.extractLsb' 24 8] ++ ([0x01] ++ cmp)),
        outlen := BitVec.ofNat 32 (8 + (1 + cmp.length)) })

/-- R146: FRAMEMETA, whatever the four registers hold, writes them little-endian to OUT; OUTLEN is 16; nothing
else changes. -/
def Obligations.FramemetaWritesTheMetadataRecord : Prop :=
  ∀ s : State, s.fault = false →
    exec .framemeta s = .next { s with
      out := some
        [s.width.extractLsb' 0 8, s.width.extractLsb' 8 8, s.width.extractLsb' 16 8, s.width.extractLsb' 24 8,
         s.height.extractLsb' 0 8, s.height.extractLsb' 8 8, s.height.extractLsb' 16 8,
         s.height.extractLsb' 24 8,
         s.frate.extractLsb' 0 8, s.frate.extractLsb' 8 8, s.frate.extractLsb' 16 8, s.frate.extractLsb' 24 8,
         s.fcount.extractLsb' 0 8, s.fcount.extractLsb' 8 8, s.fcount.extractLsb' 16 8,
         s.fcount.extractLsb' 24 8],
      outlen := 16 }

/-- R76 and 95_test_vectors.md S2: from every state that meets the invariants and has a tag, FRAMEBM and FRAMEBMX
write records that read back as well formed, the BMX one with the width and height of the block "followed
immediately by a valid BM container", the same one FRAMEBM writes. -/
def Obligations.FramedContainersReadBack : Prop :=
  ∀ s : State, Inv s → s.fault = false → s.tag ≠ none →
    ∃ (t u : State) (o o' : List Byte) (bm : Bm),
      exec .framebm s = .next t ∧ t.out = some o ∧ decodeRecord .bm o = .ok bm.toInstr ∧
      exec .framebmx s = .next u ∧ u.out = some o' ∧
      decodeRecord .bmx o' = .ok (.bmx s.width s.height bm)

/-- R79: the tag byte, byte 0 of a BM record and byte 8 of a BMX record, is 0 or 1, in every state. -/
def Obligations.FramedTagByteIsZeroOrOne : Prop :=
  (∀ s t : State, s.fault = false → exec .framebm s = .next t → t.fault = false →
    ∃ o b, t.out = some o ∧ o[0]? = some b ∧ (b = 0x00 ∨ b = 0x01)) ∧
  (∀ s t : State, s.fault = false → exec .framebmx s = .next t → t.fault = false →
    ∃ o b, t.out = some o ∧ o[8]? = some b ∧ (b = 0x00 ∨ b = 0x01))

/-- 95_test_vectors.md S7 with R125: if `decompress` undoes `compress` on this RAW, what stands behind the tag byte
gives RAW back on either branch. -/
def Obligations.FramedPayloadGivesRawBack : Prop :=
  ∀ (s : State) (raw : List Byte) (decompress : List Byte → List Byte),
    Inv s → s.fault = false → s.tag ≠ none → s.raw = some raw → decompress (s.compress raw) = raw →
    ∃ (t : State) (o : List Byte), exec .framebm s = .next t ∧ t.out = some o ∧
      ((o[0]? = some 0x00 ∧ o.drop 1 = raw) ∨ (o[0]? = some 0x01 ∧ decompress (o.drop 3) = raw))

/-! ### The record rows -/

/-- R74 to R77 as the model performs them (log entry 2): writing a record puts exactly its bytes into its buffer,
with the length register and the clearing downstream of the operation that writes it, and nothing else changes. -/
def Obligations.RecordsWriteTheirBuffers : Prop :=
  ∀ s : State, s.fault = false →
    (∀ data : List Byte, data.length ≤ 65535 →
      exec (.cblk data) s = .next { s with
        cmp := some ([BitVec.ofNat 8 data.length, BitVec.ofNat 8 (data.length / 256)] ++ data),
        cmplen := BitVec.ofNat 32 (2 + data.length), tag := none, out := none, outlen := 0 }) ∧
    (∀ raw : List Byte, 1 ≤ raw.length → raw.length ≤ 2 ^ 32 - 10 →
      exec (.bmRaw raw) s = .next { s with
        out := some ([0x00] ++ raw), outlen := BitVec.ofNat 32 (1 + raw.length) }) ∧
    (∀ data : List Byte, data.length ≤ 65535 →
      exec (.bmCmp data) s = .next { s with
        out := some ([0x01, BitVec.ofNat 8 data.length, BitVec.ofNat 8 (data.length / 256)] ++ data),
        outlen := BitVec.ofNat 32 (3 + data.length) }) ∧
    (∀ (w h : Word) (raw : List Byte), 1 ≤ raw.length → raw.length ≤ 2 ^ 32 - 10 →
      raw.length = (w.toNat + 7) / 8 * h.toNat →
      exec (.bmx w h (.raw raw)) s = .next { s with
        out := some
          ([w.extractLsb' 0 8, w.extractLsb' 8 8, w.extractLsb' 16 8, w.extractLsb' 24 8,
            h.extractLsb' 0 8, h.extractLsb' 8 8, h.extractLsb' 16 8, h.extractLsb' 24 8] ++ ([0x00] ++ raw)),
        outlen := BitVec.ofNat 32 (8 + (1 + raw.length)) }) ∧
    (∀ (w h : Word) (data : List Byte), data.length ≤ 65535 → 1 ≤ w.toNat → 1 ≤ h.toNat →
      exec (.bmx w h (.cmp data)) s = .next { s with
        out := some
          ([w.extractLsb' 0 8, w.extractLsb' 8 8, w.extractLsb' 16 8, w.extractLsb' 24 8,
            h.extractLsb' 0 8, h.extractLsb' 8 8, h.extractLsb' 16 8, h.extractLsb' 24 8] ++
            ([0x01, BitVec.ofNat 8 data.length, BitVec.ofNat 8 (data.length / 256)] ++ data)),
        outlen := BitVec.ofNat 32 (8 + (3 + data.length)) }) ∧
    (∀ w h r c : Word,
      exec (.metaRec w h r c) s = .next { s with
        out := some
          [w.extractLsb' 0 8, w.extractLsb' 8 8, w.extractLsb' 16 8, w.extractLsb' 24 8,
           h.extractLsb' 0 8, h.extractLsb' 8 8, h.extractLsb' 16 8, h.extractLsb' 24 8,
           r.extractLsb' 0 8, r.extractLsb' 8 8, r.extractLsb' 16 8, r.extractLsb' 24 8,
           c.extractLsb' 0 8, c.extractLsb' 8 8, c.extractLsb' 16 8, c.extractLsb' 24 8],
        outlen := 16 })

/-- R7 ("Neither is defined outside its range"), R75, R80 as the model has them (log entry 2): a record whose
payload length its layout does not allow is refused by name, in every state. -/
def Obligations.IllFormedRecordIsRefused : Prop :=
  ∀ s : State,
    (∀ data : List Byte, 65535 < data.length →
      exec (.cblk data) s = .refused (.illFormedRecord "CBLK") ∧
      exec (.bmCmp data) s = .refused (.illFormedRecord "BM.CMP") ∧
      ∀ w h : Word, exec (.bmx w h (.cmp data)) s = .refused (.illFormedRecord "BMX")) ∧
    (∀ raw : List Byte, raw.length = 0 ∨ 2 ^ 32 - 10 < raw.length →
      exec (.bmRaw raw) s = .refused (.illFormedRecord "BM.RAW") ∧
      ∀ w h : Word, exec (.bmx w h (.raw raw)) s = .refused (.illFormedRecord "BMX")) ∧
    (∀ (w h : Word) (raw : List Byte), raw.length ≠ (w.toNat + 7) / 8 * h.toNat →
      exec (.bmx w h (.raw raw)) s = .refused (.illFormedRecord "BMX")) ∧
    (∀ (w h : Word) (data : List Byte), w = 0#32 ∨ h = 0#32 →
      exec (.bmx w h (.cmp data)) s = .refused (.illFormedRecord "BMX"))

/-- R122, R142, R144, R146 against R74 to R77: what COMPRESS and the three framing commands do, where they raise
nothing, is exactly the writing of the record that the rule names. -/
def Obligations.CommandsWriteTheRecordsTheirRulesName : Prop :=
  ∀ s : State, Inv s →
    (∀ raw, s.raw = some raw → (s.compress raw).length ≤ 65535 →
      exec .compress s = exec (.cblk (s.compress raw)) s) ∧
    (∀ raw, s.tag = some false → s.raw = some raw →
      exec .framebm s = exec (.bmRaw raw) s ∧
      exec .framebmx s = exec (.bmx s.width s.height (.raw raw)) s) ∧
    (∀ raw, s.tag = some true → s.raw = some raw →
      exec .framebm s = exec (.bmCmp (s.compress raw)) s ∧
      exec .framebmx s = exec (.bmx s.width s.height (.cmp (s.compress raw))) s) ∧
    exec .framemeta s = exec (.metaRec s.width s.height s.frate s.fcount) s

/-! ### Frames -/

/-- R78, R172, R33 ("Only the host writes PIX"): no instruction but RESET changes WIDTH, HEIGHT, FRATE, FCOUNT or
any cell of PIX, taking a fault included; nor the model's own fields. -/
def Obligations.CommandsKeepDataRegistersAndPixels : Prop :=
  ∀ (i : Instr) (s t : State), i ≠ .reset → exec i s = .next t →
    t.width = s.width ∧ t.height = s.height ∧ t.frate = s.frate ∧ t.fcount = s.fcount ∧
    (∀ a, t.pix.read a = s.pix.read a) ∧ t.pix = s.pix ∧
    t.params = s.params ∧ t.host = s.host ∧ t.reply = s.reply ∧ t.draws = s.draws

/-- R78, R104, R122, R131, R142, R144, R146, R166: what an instruction leaves unchanged when it takes no fault.
Only PACK changes RAW and RAWLEN; only PACK, COMPRESS and the writing of CBLK change CMP and CMPLEN; only these and
SELECT change the tag; NOP keeps OUT; ERR is kept by all, and every cell of PIX. -/
def Obligations.OperationsChangeOnlyTheirResults : Prop :=
  ∀ (i : Instr) (s t : State), i ≠ .reset → exec i s = .next t → t.fault = s.fault →
    t.err = s.err ∧ (∀ a, t.pix.read a = s.pix.read a) ∧
    (i ≠ .pack → t.raw = s.raw ∧ t.rawlen = s.rawlen) ∧
    (i ≠ .pack → i ≠ .compress → (∀ data, i ≠ .cblk data) → t.cmp = s.cmp ∧ t.cmplen = s.cmplen) ∧
    (i ≠ .pack → i ≠ .compress → i ≠ .select → (∀ data, i ≠ .cblk data) → t.tag = s.tag) ∧
    (i = .nop → t.out = s.out ∧ t.outlen = s.outlen)

/-! ### The host interface -/

/-- R162 (with R24 to R32): a register read returns the register of its offset, in every state, and changes
nothing; CMD and the reserved offsets read as 0. -/
def Obligations.RegisterReadReturnsTheRegister : Prop :=
  ∀ (s : State) (rest : List Txn) (o : Nat), o % 4 = 0 → s.host = .regRead o :: rest →
    step s = .next { s with
      host := rest
      reply := .word
        (if o = 0x00 then s.width else if o = 0x04 then s.height
         else if o = 0x08 then s.frate else if o = 0x0C then s.fcount
         else if o = 0x10 then 0
         else if o = 0x14 then
           BitVec.ofNat 32
             (s.raw.isSome.toNat + 2 * s.cmp.isSome.toNat + 4 * s.tag.isSome.toNat + 8 * s.out.isSome.toNat +
              16 * s.fault.toNat)
         else if o = 0x18 then s.err
         else if o = 0x1C then (if s.tag = some true then 1 else 0)
         else if o = 0x20 then s.rawlen else if o = 0x24 then s.cmplen else if o = 0x28 then s.outlen
         else 0) }

/-- R165: a buffer read returns `S[a]` where the buffer is valid and `a < len(S)`, else an unspecified byte, the
next free value (log entry 3), whatever that value is; no state of the block changes. -/
def Obligations.BufferReadFollowsTheBuffer : Prop :=
  ∀ (s : State) (rest : List Txn) (sp : Space) (a : Nat), s.host = .bufRead sp a :: rest →
    (∀ (bytes : List Byte) (b : Byte),
      (match sp with | .raw => s.raw | .cmp => s.cmp | .out => s.out) = some bytes → bytes[a]? = some b →
      step s = .next { s with host := rest, reply := .byte b }) ∧
    ((match sp with | .raw => s.raw | .cmp => s.cmp | .out => s.out) = none →
      step s = .next { s with host := rest, reply := .byte (Config.freeByte s.draws), draws := s.draws + 1 }) ∧
    (∀ bytes : List Byte,
      (match sp with | .raw => s.raw | .cmp => s.cmp | .out => s.out) = some bytes → bytes.length ≤ a →
      step s = .next { s with host := rest, reply := .byte (Config.freeByte s.draws), draws := s.draws + 1 })

/-- R163, R37 (with R21 to R23, R32): a write to a register other than CMD when FAULT = 0. WIDTH and HEIGHT take the
value and clear all four results, FRATE and FCOUNT take it and clear OUT, every other aligned offset is ignored. -/
def Obligations.RegisterWriteStoresAndClears : Prop :=
  ∀ (s : State) (rest : List Txn) (o : Nat) (v : Word), s.fault = false → s.host = .regWrite o v :: rest →
    (o = 0x00 → step s = .next { s with
      host := rest, reply := .none, width := v,
      raw := none, rawlen := 0, cmp := none, cmplen := 0, tag := none, out := none, outlen := 0 }) ∧
    (o = 0x04 → step s = .next { s with
      host := rest, reply := .none, height := v,
      raw := none, rawlen := 0, cmp := none, cmplen := 0, tag := none, out := none, outlen := 0 }) ∧
    (o = 0x08 → step s = .next { s with
      host := rest, reply := .none, frate := v, out := none, outlen := 0 }) ∧
    (o = 0x0C → step s = .next { s with
      host := rest, reply := .none, fcount := v, out := none, outlen := 0 }) ∧
    (o % 4 = 0 → 0x14 ≤ o → step s = .next { s with host := rest, reply := .none })

/-- R164: a pixel write when FAULT = 0 stores the bit in its cell, leaves every other cell as it was, and clears
all four results; when FAULT = 1 it is ignored. -/
def Obligations.PixelWriteStoresAndClears : Prop :=
  ∀ (s : State) (rest : List Txn) (i : Nat) (b : Bool), i < s.pixCells → s.host = .pixWrite i b :: rest →
    (s.fault = true → step s = .next { s with host := rest, reply := .none }) ∧
    (s.fault = false → ∃ m : Memory,
      step s = .next { s with
        host := rest, reply := .none, pix := m,
        raw := none, rawlen := 0, cmp := none, cmplen := 0, tag := none, out := none, outlen := 0 } ∧
      ∀ j, m.read j = if j = i then some b else s.pix.read j)

/-- R56, R164 as the model has them (log entry 7): an access that is "not a transaction the interface has" stops
the model by name. -/
def Obligations.AccessOffTheInterfaceStops : Prop :=
  (∀ (s : State) (rest : List Txn) (o : Nat), o % 4 ≠ 0 → s.host = .regRead o :: rest →
    step s = .fault (.noRegisterAt o)) ∧
  (∀ (s : State) (rest : List Txn) (o : Nat) (v : Word), o % 4 ≠ 0 → s.host = .regWrite o v :: rest →
    step s = .fault (.noRegisterAt o)) ∧
  (∀ (s : State) (rest : List Txn) (i : Nat) (b : Bool), s.pixCells ≤ i → s.host = .pixWrite i b :: rest →
    step s = .fault (.noPixelCell i))

/-- R57: the same write made twice in a row leaves the same state as made once, for every write: to a data
register, to a pixel, to CMD with any word, and hardware reset, in every state. -/
def Obligations.WritesAreIdempotent : Prop :=
  ∀ (t : Txn) (s u : State), (∀ o, t ≠ .regRead o) → (∀ sp a, t ≠ .bufRead sp a) →
    execTxn t s = .next u → execTxn t u = .next u

/-! ### The faulted state -/

/-- R174.1: while FAULT = 1 every instruction but RESET leaves the state as it is. -/
def Obligations.FaultedBlockIgnoresInstructions : Prop :=
  ∀ (i : Instr) (s : State), s.fault = true → i.wellFormed = true → i ≠ .reset → exec i s = .next s

/-- R174: while FAULT = 1 no transaction of the interface but RESET and hardware reset changes the block; what may
change is the host's list, its reply and the count of free bytes. -/
def Obligations.FaultedBlockChangesOnlyByReset : Prop :=
  ∀ (s : State) (t : Txn) (rest : List Txn), s.fault = true → s.host = t :: rest →
    t.wellFormed s.pixCells = true → t ≠ .hardReset → t ≠ .regWrite 0x10 0x0000000F →
    ∃ (r : Reply) (d : Nat), step s = .next { s with host := rest, reply := r, draws := d }

/-! ### Invariants and rules of the whole machine -/

/-- R38 with R26, R28, R29, R31 and R33: the invariants hold at reset. -/
def Obligations.ResetMeetsTheInvariants : Prop := Inv State.reset

/-- R38 with R26, R28, R29, R31 and R33: every step keeps the invariants, whatever the host's next transaction. -/
def Obligations.EveryStepKeepsTheInvariants : Prop :=
  ∀ s t : State, Inv s → step s = .next t → Inv t

/-- R201: no step changes the parameters of the instance, a reset included. -/
def Obligations.NoStepChangesTheParameters : Prop :=
  ∀ s t : State, step s = .next t → t.params = s.params

/-- R26, R171, R172, R174: a step keeps ERR and FAULT; or it is a write of some word `w` to CMD that takes a fault
from FAULT = 0, ERR then holding the code of one of the six faults and `w[7:0]`, and all four results are gone; or it
is a reset, and both are 0. -/
def Obligations.ErrIsWrittenByAFaultAndClearedByReset : Prop :=
  ∀ s t : State, step s = .next t →
    (t.err = s.err ∧ t.fault = s.fault) ∨
    (s.fault = false ∧ t.fault = true ∧
      (∃ (w : Word) (code : Nat), s.host.head? = some (.regWrite 0x10 w) ∧ 1 ≤ code ∧ code ≤ 6 ∧
        t.err = BitVec.ofNat 32 ((w.extractLsb' 0 8).toNat * 256 + code)) ∧
      t.raw = none ∧ t.cmp = none ∧ t.tag = none ∧ t.out = none) ∨
    (t.err = 0 ∧ t.fault = false ∧
      (s.host.head? = some .hardReset ∨ s.host.head? = some (.regWrite 0x10 0x0000000F)))

/-- R30, column "set by": a result appears only by its own command. RAWV by PACK, CMPV by COMPRESS, TAGV by
SELECT, OUTV by FRAMEBM, FRAMEBMX or FRAMEMETA. -/
def Obligations.ResultsAppearOnlyByTheirCommands : Prop :=
  ∀ s t : State, step s = .next t →
    (s.raw = none → t.raw ≠ none → s.host.head? = some (.regWrite 0x10 0x00000001)) ∧
    (s.cmp = none → t.cmp ≠ none → s.host.head? = some (.regWrite 0x10 0x00000002)) ∧
    (s.tag = none → t.tag ≠ none → s.host.head? = some (.regWrite 0x10 0x00000003)) ∧
    (s.out = none → t.out ≠ none →
      s.host.head? = some (.regWrite 0x10 0x00000004) ∨ s.host.head? = some (.regWrite 0x10 0x00000005) ∨
      s.host.head? = some (.regWrite 0x10 0x00000006))

/-- R203 (with R82, R134, R141): in every state that is not faulted and holds a complete image within the
capacity, whose packing `compress` takes to at most 65535 bytes, PACK, COMPRESS, SELECT and then FRAMEBM or
FRAMEBMX end with FAULT = 0 and OUT the container: the compressed form exactly when `L + 3 < N`. RAW is the packing
that PACK writes (`PackWritesTheInvertedPackedImage`). -/
def Obligations.PipelineOrderYieldsTheContainer : Prop :=
  ∀ s : State, s.fault = false → s.width ≠ 0#32 → s.height ≠ 0#32 → s.rawBytes ≤ s.rawLimit →
    (∀ i, i < s.pixelCount → s.pix.read i ≠ none) → (s.compress s.packed).length ≤ 65535 →
    ∃ (p c t f x : State) (bm : List Byte),
      exec .pack s = .next p ∧ p.raw = some s.packed ∧ exec .compress p = .next c ∧ exec .select c = .next t ∧
      bm = (if (s.compress s.packed).length + 3 < s.packed.length
            then [0x01] ++ (u16le (s.compress s.packed).length ++ s.compress s.packed)
            else [0x00] ++ s.packed) ∧
      exec .framebm t = .next f ∧ successful f ∧ f.out = some bm ∧ f.outlen.toNat = bm.length ∧
      exec .framebmx t = .next x ∧ successful x ∧ x.out = some (u32le s.width ++ u32le s.height ++ bm) ∧
      x.outlen.toNat = 8 + bm.length
end

