-- ==== Sys2Proof/Laws/Decode.lean ====
section
/-! SUPPORT. Little-endian fields, and what the decoder does with the bytes the encoder writes. -/

namespace Sys2Proof

@[simp] theorem length_leBytes (n v : Nat) : (leBytes n v).length = n := by
  induction n generalizing v with
  | zero => rfl
  | succ n ih => simp [leBytes, ih]

@[simp] theorem length_u16le (v : Nat) : (u16le v).length = 2 := length_leBytes 2 v

@[simp] theorem length_u32le (v : Word) : (u32le v).length = 4 := length_leBytes 4 v.toNat

/-- Reading back what was written keeps the value modulo the field's width (R8). -/
theorem leNat_leBytes (n v : Nat) : leNat (leBytes n v) = v % 256 ^ n := by
  induction n generalizing v with
  | zero => simp [leBytes, leNat, Nat.mod_one]
  | succ n ih =>
    have hsplit : v % 256 ^ (n + 1) = v % 256 + 256 * (v / 256 % 256 ^ n) := by
      rw [Nat.pow_succ', Nat.mod_mul (x := v) (a := 256)]
    rw [hsplit]
    simp only [leBytes, leNat, ih, BitVec.toNat_ofNat]

/-- Writing what was read gives the bytes back. -/
theorem leBytes_leNat (bs : List Byte) : leBytes bs.length (leNat bs) = bs := by
  induction bs with
  | nil => rfl
  | cons b bs ih =>
    have hb := b.isLt
    have h1 : (b.toNat + 256 * leNat bs) / 256 = leNat bs := by omega
    have h2 : BitVec.ofNat 8 (b.toNat + 256 * leNat bs) = b := by
      apply BitVec.eq_of_toNat_eq
      simp only [BitVec.toNat_ofNat]
      omega
    simp only [List.length_cons, leBytes, leNat, h1, h2, ih]

theorem leNat_lt (bs : List Byte) : leNat bs < 256 ^ bs.length := by
  induction bs with
  | nil => simp [leNat]
  | cons b bs ih =>
    have hb := b.isLt
    simp only [leNat, List.length_cons, Nat.pow_succ]
    omega

theorem u16le_eq (v : Nat) : u16le v = [BitVec.ofNat 8 v, BitVec.ofNat 8 (v / 256)] := rfl

/-- The four bytes of a 32-bit field, as R7 lists them. -/
theorem u32le_eq (w : Word) :
    u32le w = [w.extractLsb' 0 8, w.extractLsb' 8 8, w.extractLsb' 16 8, w.extractLsb' 24 8] := by
  have byte : ∀ k, BitVec.ofNat 8 (w.toNat / 2 ^ k) = w.extractLsb' k 8 := by
    intro k
    apply BitVec.eq_of_toNat_eq
    simp [BitVec.extractLsb'_toNat, Nat.shiftRight_eq_div_pow]
  have h0 := byte 0
  have h1 := byte 8
  have h2 := byte 16
  have h3 := byte 24
  simp only [u32le, leBytes, Nat.div_div_eq_div_mul]
  norm_num at h0 h1 h2 h3 ⊢
  exact ⟨h0, h1, h2, h3⟩

/-- A 32-bit field written first is the one that is read first, at every value. -/
theorem takeU32_u32le (w : Word) (rest : List Byte) : takeU32 (u32le w ++ rest) = some (w, rest) := by
  have h := leNat_leBytes 4 w.toNat
  have hw := w.isLt
  rw [Nat.mod_eq_of_lt (by simpa using hw)] at h
  simp only [leBytes] at h
  simp only [u32le, leBytes, List.cons_append, List.nil_append, takeU32, h]
  simp

/-- What `takeU32` read is what `u32le` writes. -/
theorem takeU32_some {bs rest : List Byte} {w : Word} (h : takeU32 bs = some (w, rest)) :
    bs = u32le w ++ rest := by
  match bs, h with
  | b0 :: b1 :: b2 :: b3 :: tail, h =>
    simp only [takeU32, Option.some.injEq, Prod.mk.injEq] at h
    obtain ⟨rfl, rfl⟩ := h
    have hlt := leNat_lt [b0, b1, b2, b3]
    have hback := leBytes_leNat [b0, b1, b2, b3]
    have hn : (BitVec.ofNat 32 (leNat [b0, b1, b2, b3])).toNat = leNat [b0, b1, b2, b3] := by
      rw [BitVec.toNat_ofNat]
      exact Nat.mod_eq_of_lt (by simpa using hlt)
    rw [u32le, hn, show (4 : Nat) = [b0, b1, b2, b3].length from rfl, hback]
    rfl

/-- A length field the data fits is read back. -/
theorem decodeCounted_u16le (data : List Byte) (h : data.length ≤ Config.lenMax) :
    decodeCounted (u16le data.length ++ data) = .ok data := by
  have hn := leNat_leBytes 2 data.length
  rw [Nat.mod_eq_of_lt (by simp [Config.lenMax, Config.lenW] at h; omega)] at hn
  simp only [leBytes] at hn
  simp [u16le, leBytes, decodeCounted, hn]

theorem decodeCounted_ok {bs data : List Byte} (h : decodeCounted bs = .ok data) :
    bs = u16le data.length ++ data := by
  match bs, h with
  | b0 :: b1 :: tail, h =>
    simp only [decodeCounted] at h
    split at h
    · rename_i hl
      cases h
      have hback := leBytes_leNat [b0, b1]
      rw [hl] at hback
      rw [u16le, show (2 : Nat) = [b0, b1].length from rfl, hback]
      rfl
    · cases h
  | [], h => cases h
  | [_], h => cases h

theorem decodeBm_encodeBm (bm : Bm) (h : bm.wellFormed = true) : decodeBm (encodeBm bm) = .ok bm := by
  cases bm with
  | raw bytes => rfl
  | cmp data =>
    have hc := decodeCounted_u16le data (by simpa [Bm.wellFormed] using h)
    simp [encodeBm, decodeBm, hc]

theorem decodeBm_ok {bs : List Byte} {bm : Bm} (h : decodeBm bs = .ok bm) : bs = encodeBm bm := by
  match bs, h with
  | t :: rest, h =>
    simp only [decodeBm] at h
    split at h
    · rename_i ht
      cases h
      simp [encodeBm, ht]
    · split at h
      · rename_i ht
        split at h
        · rename_i data hd
          cases h
          simp [encodeBm, ht, decodeCounted_ok hd]
        · cases h
      · cases h
  | [], h => cases h

/-- The register at a register's own offset is that register. -/
@[simp] theorem Reg.at?_offset (r : Reg) : Reg.at? r.offset = some r := by cases r <;> rfl

end Sys2Proof
end

