-- ==== Sys2Proof/Laws/Memory.lean ====
section
/-! SUPPORT. PIX: what a write leaves to be read, and that it keeps the canonical form. -/

namespace Sys2Proof.Machine

@[simp] theorem Memory.read_nil (i : Nat) : Memory.read [] i = none := rfl

theorem Memory.read_cons (j : Nat) (c : Bool) (m : Memory) (i : Nat) :
    Memory.read ((j, c) :: m) i = if i = j then some c else m.read i := by
  simp only [Memory.read, List.lookup_cons]
  by_cases h : i = j
  · simp [h]
  · simp [h, beq_false_of_ne h]

/-- A read after a write: the value written in the cell written, every other cell as it was. -/
theorem Memory.read_write (m : Memory) (i : Nat) (b : Bool) (j : Nat) :
    (m.write i b).read j = if j = i then some b else m.read j := by
  induction m with
  | nil => simp [Memory.write, Memory.read_cons]
  | cons p m ih =>
    obtain ⟨k, c⟩ := p
    simp only [Memory.write]
    split
    · simp [Memory.read_cons]
    · split
      · rename_i h
        subst h
        simp only [Memory.read_cons]
        split <;> rfl
      · simp only [Memory.read_cons, ih]
        split <;> split <;> first | rfl | omega

/-- Every cell of the written list is the cell written or a cell that was listed. -/
theorem Memory.mem_write {m : Memory} {i : Nat} {b : Bool} {p : Nat × Bool} (h : p ∈ m.write i b) :
    p = (i, b) ∨ p ∈ m := by
  induction m with
  | nil => simpa [Memory.write] using h
  | cons q m ih =>
    obtain ⟨k, c⟩ := q
    simp only [Memory.write] at h
    split at h
    · simpa using h
    · split at h
      · rcases List.mem_cons.1 h with h | h
        · exact .inl h
        · exact .inr (List.mem_cons_of_mem _ h)
      · rcases List.mem_cons.1 h with h | h
        · exact .inr (h ▸ List.mem_cons_self ..)
        · exact (ih h).imp id (List.mem_cons_of_mem _)

/-- A write keeps the canonical form. -/
theorem Memory.write_wf {m : Memory} (h : m.wf) (i : Nat) (b : Bool) : (m.write i b).wf := by
  induction m with
  | nil => simp [Memory.write]
  | cons q m ih =>
    obtain ⟨k, c⟩ := q
    obtain ⟨hk, hm⟩ := List.pairwise_cons.1 h
    simp only [Memory.write]
    split
    · rename_i hik
      refine List.pairwise_cons.2 ⟨?_, h⟩
      intro p hp
      rcases List.mem_cons.1 hp with rfl | hp
      · exact hik
      · exact hik.trans (hk p hp)
    · split
      · rename_i hik
        subst hik
        exact List.pairwise_cons.2 ⟨hk, hm⟩
      · refine List.pairwise_cons.2 ⟨?_, ih hm⟩
        intro p hp
        rcases Memory.mem_write hp with rfl | hp
        · show k < i
          omega
        · exact hk p hp

/-- Writing the bit a cell was just given changes nothing. -/
theorem Memory.write_write (m : Memory) (i : Nat) (b : Bool) : (m.write i b).write i b = m.write i b := by
  induction m with
  | nil => simp [Memory.write]
  | cons q m ih =>
    obtain ⟨k, c⟩ := q
    simp only [Memory.write]
    split
    · simp [Memory.write]
    · split
      · simp [Memory.write]
      · rename_i h1 h2
        simp [Memory.write, h1, h2, ih]

/-- A cell that holds a bit is listed. -/
theorem Memory.mem_of_read {m : Memory} {i : Nat} (h : (m.read i).isSome = true) : ∃ b, (i, b) ∈ m := by
  induction m with
  | nil => simp at h
  | cons q m ih =>
    obtain ⟨k, c⟩ := q
    rw [Memory.read_cons] at h
    split at h
    · rename_i hik
      exact ⟨c, by simp [hik]⟩
    · obtain ⟨b, hb⟩ := ih h
      exact ⟨b, List.mem_cons_of_mem _ hb⟩

/-- The empty pixel space is in canonical form. -/
theorem Memory.wf_nil : Memory.wf [] := List.Pairwise.nil

end Sys2Proof.Machine
end

