-- ==== Sys2Proof/Laws/Pack.lean ====
section
/-! SUPPORT. The bytes PACK writes, bit by bit. -/

namespace Sys2Proof.Machine

/-- Bit `j` of a packed byte is lane `j` (R105, `LSB_FIRST`). -/
theorem getLsbD_packByte (lane : Nat → Bool) (j : Nat) (hj : j < 8) : (packByte lane).getLsbD j = lane j := by
  have all : ∀ b0 b1 b2 b3 b4 b5 b6 b7 : Bool,
      BitVec.ofNat 8 (b0.toNat + (b1.toNat * 2 + (b2.toNat * 4 + (b3.toNat * 8 + (b4.toNat * 16 +
        (b5.toNat * 32 + (b6.toNat * 64 + b7.toNat * 128))))))) =
      BitVec.ofBoolListLE [b0, b1, b2, b3, b4, b5, b6, b7] := by decide
  have hp : packByte lane =
      BitVec.ofBoolListLE [lane 0, lane 1, lane 2, lane 3, lane 4, lane 5, lane 6, lane 7] := by
    rw [← all]
    simp [packByte, List.range_succ, lanePos, Config.bitOrder]
  rw [hp]
  interval_cases j <;> simp [BitVec.ofBoolListLE]

@[simp] theorem State.length_packed (s : State) : s.packed.length = s.rawBytes := by simp [State.packed]

/-- Byte `k` of row `y` of the packed image. -/
theorem State.packed_getElem? (s : State) {y k : Nat} (hy : y < s.height.toNat) (hk : k < s.stride) :
    s.packed[y * s.stride + k]? = some (packByte (s.laneBit y k)) := by
  have hi : y * s.stride + k < s.rawBytes := by
    have : (y + 1) * s.stride ≤ s.height.toNat * s.stride := Nat.mul_le_mul_right _ hy
    rw [Nat.add_mul, Nat.one_mul] at this
    rw [State.rawBytes, Nat.mul_comm s.stride]
    omega
  have hpos : 0 < s.stride := by omega
  have hd : (y * s.stride + k) / s.stride = y := by
    rw [Nat.mul_comm, Nat.mul_add_div hpos, Nat.div_eq_of_lt hk, Nat.add_zero]
  have hm : (y * s.stride + k) % s.stride = k := by
    rw [Nat.mul_comm, Nat.mul_add_mod, Nat.mod_eq_of_lt hk]
  simp only [State.packed, List.getElem?_map, List.getElem?_range hi, Option.map_some, hd, hm]

/-- The image is complete exactly when no needed cell holds `⊥` (R107). -/
theorem State.imageComplete_iff (s : State) :
    s.imageComplete = true ↔ ∀ i, i < s.pixelCount → (s.pix.read i).isSome = true := by
  simp [State.imageComplete]

/-- `RAW_LIMIT` never exceeds `2^32 - 10` (R5). -/
theorem State.rawLimit_le (s : State) : s.rawLimit ≤ Config.rawCeiling := by
  unfold State.rawLimit
  split
  · exact Nat.le_refl _
  · exact Nat.min_le_right _ _

end Sys2Proof.Machine
end

