-- ==== Sys2Proof/Laws/State.lean ====
section
/-! SUPPORT. One lemma per field per named update of the state, each true by unfolding the update once, and what the
sizes and parameters of a state depend on. -/

namespace Sys2Proof.Machine

/-! ### `dropOut` -/

@[simp] theorem State.dropOut_width (s : State) : (s.dropOut).width = s.width := rfl
@[simp] theorem State.dropOut_height (s : State) : (s.dropOut).height = s.height := rfl
@[simp] theorem State.dropOut_frate (s : State) : (s.dropOut).frate = s.frate := rfl
@[simp] theorem State.dropOut_fcount (s : State) : (s.dropOut).fcount = s.fcount := rfl
@[simp] theorem State.dropOut_fault (s : State) : (s.dropOut).fault = s.fault := rfl
@[simp] theorem State.dropOut_err (s : State) : (s.dropOut).err = s.err := rfl
@[simp] theorem State.dropOut_tag (s : State) : (s.dropOut).tag = s.tag := rfl
@[simp] theorem State.dropOut_rawlen (s : State) : (s.dropOut).rawlen = s.rawlen := rfl
@[simp] theorem State.dropOut_cmplen (s : State) : (s.dropOut).cmplen = s.cmplen := rfl
@[simp] theorem State.dropOut_outlen (s : State) : (s.dropOut).outlen = 0 := rfl
@[simp] theorem State.dropOut_pix (s : State) : (s.dropOut).pix = s.pix := rfl
@[simp] theorem State.dropOut_raw (s : State) : (s.dropOut).raw = s.raw := rfl
@[simp] theorem State.dropOut_cmp (s : State) : (s.dropOut).cmp = s.cmp := rfl
@[simp] theorem State.dropOut_out (s : State) : (s.dropOut).out = none := rfl
@[simp] theorem State.dropOut_params (s : State) : (s.dropOut).params = s.params := rfl
@[simp] theorem State.dropOut_host (s : State) : (s.dropOut).host = s.host := rfl
@[simp] theorem State.dropOut_reply (s : State) : (s.dropOut).reply = s.reply := rfl
@[simp] theorem State.dropOut_draws (s : State) : (s.dropOut).draws = s.draws := rfl

/-! ### `dropTag` -/

@[simp] theorem State.dropTag_width (s : State) : (s.dropTag).width = s.width := rfl
@[simp] theorem State.dropTag_height (s : State) : (s.dropTag).height = s.height := rfl
@[simp] theorem State.dropTag_frate (s : State) : (s.dropTag).frate = s.frate := rfl
@[simp] theorem State.dropTag_fcount (s : State) : (s.dropTag).fcount = s.fcount := rfl
@[simp] theorem State.dropTag_fault (s : State) : (s.dropTag).fault = s.fault := rfl
@[simp] theorem State.dropTag_err (s : State) : (s.dropTag).err = s.err := rfl
@[simp] theorem State.dropTag_tag (s : State) : (s.dropTag).tag = none := rfl
@[simp] theorem State.dropTag_rawlen (s : State) : (s.dropTag).rawlen = s.rawlen := rfl
@[simp] theorem State.dropTag_cmplen (s : State) : (s.dropTag).cmplen = s.cmplen := rfl
@[simp] theorem State.dropTag_outlen (s : State) : (s.dropTag).outlen = 0 := rfl
@[simp] theorem State.dropTag_pix (s : State) : (s.dropTag).pix = s.pix := rfl
@[simp] theorem State.dropTag_raw (s : State) : (s.dropTag).raw = s.raw := rfl
@[simp] theorem State.dropTag_cmp (s : State) : (s.dropTag).cmp = s.cmp := rfl
@[simp] theorem State.dropTag_out (s : State) : (s.dropTag).out = none := rfl
@[simp] theorem State.dropTag_params (s : State) : (s.dropTag).params = s.params := rfl
@[simp] theorem State.dropTag_host (s : State) : (s.dropTag).host = s.host := rfl
@[simp] theorem State.dropTag_reply (s : State) : (s.dropTag).reply = s.reply := rfl
@[simp] theorem State.dropTag_draws (s : State) : (s.dropTag).draws = s.draws := rfl

/-! ### `dropCmp` -/

@[simp] theorem State.dropCmp_width (s : State) : (s.dropCmp).width = s.width := rfl
@[simp] theorem State.dropCmp_height (s : State) : (s.dropCmp).height = s.height := rfl
@[simp] theorem State.dropCmp_frate (s : State) : (s.dropCmp).frate = s.frate := rfl
@[simp] theorem State.dropCmp_fcount (s : State) : (s.dropCmp).fcount = s.fcount := rfl
@[simp] theorem State.dropCmp_fault (s : State) : (s.dropCmp).fault = s.fault := rfl
@[simp] theorem State.dropCmp_err (s : State) : (s.dropCmp).err = s.err := rfl
@[simp] theorem State.dropCmp_tag (s : State) : (s.dropCmp).tag = none := rfl
@[simp] theorem State.dropCmp_rawlen (s : State) : (s.dropCmp).rawlen = s.rawlen := rfl
@[simp] theorem State.dropCmp_cmplen (s : State) : (s.dropCmp).cmplen = 0 := rfl
@[simp] theorem State.dropCmp_outlen (s : State) : (s.dropCmp).outlen = 0 := rfl
@[simp] theorem State.dropCmp_pix (s : State) : (s.dropCmp).pix = s.pix := rfl
@[simp] theorem State.dropCmp_raw (s : State) : (s.dropCmp).raw = s.raw := rfl
@[simp] theorem State.dropCmp_cmp (s : State) : (s.dropCmp).cmp = none := rfl
@[simp] theorem State.dropCmp_out (s : State) : (s.dropCmp).out = none := rfl
@[simp] theorem State.dropCmp_params (s : State) : (s.dropCmp).params = s.params := rfl
@[simp] theorem State.dropCmp_host (s : State) : (s.dropCmp).host = s.host := rfl
@[simp] theorem State.dropCmp_reply (s : State) : (s.dropCmp).reply = s.reply := rfl
@[simp] theorem State.dropCmp_draws (s : State) : (s.dropCmp).draws = s.draws := rfl

/-! ### `dropRaw` -/

@[simp] theorem State.dropRaw_width (s : State) : (s.dropRaw).width = s.width := rfl
@[simp] theorem State.dropRaw_height (s : State) : (s.dropRaw).height = s.height := rfl
@[simp] theorem State.dropRaw_frate (s : State) : (s.dropRaw).frate = s.frate := rfl
@[simp] theorem State.dropRaw_fcount (s : State) : (s.dropRaw).fcount = s.fcount := rfl
@[simp] theorem State.dropRaw_fault (s : State) : (s.dropRaw).fault = s.fault := rfl
@[simp] theorem State.dropRaw_err (s : State) : (s.dropRaw).err = s.err := rfl
@[simp] theorem State.dropRaw_tag (s : State) : (s.dropRaw).tag = none := rfl
@[simp] theorem State.dropRaw_rawlen (s : State) : (s.dropRaw).rawlen = 0 := rfl
@[simp] theorem State.dropRaw_cmplen (s : State) : (s.dropRaw).cmplen = 0 := rfl
@[simp] theorem State.dropRaw_outlen (s : State) : (s.dropRaw).outlen = 0 := rfl
@[simp] theorem State.dropRaw_pix (s : State) : (s.dropRaw).pix = s.pix := rfl
@[simp] theorem State.dropRaw_raw (s : State) : (s.dropRaw).raw = none := rfl
@[simp] theorem State.dropRaw_cmp (s : State) : (s.dropRaw).cmp = none := rfl
@[simp] theorem State.dropRaw_out (s : State) : (s.dropRaw).out = none := rfl
@[simp] theorem State.dropRaw_params (s : State) : (s.dropRaw).params = s.params := rfl
@[simp] theorem State.dropRaw_host (s : State) : (s.dropRaw).host = s.host := rfl
@[simp] theorem State.dropRaw_reply (s : State) : (s.dropRaw).reply = s.reply := rfl
@[simp] theorem State.dropRaw_draws (s : State) : (s.dropRaw).draws = s.draws := rfl

/-! ### `setRaw` -/

@[simp] theorem State.setRaw_width (bytes : List Byte) (s : State) : (State.setRaw bytes s).width = s.width := rfl
@[simp] theorem State.setRaw_height (bytes : List Byte) (s : State) : (State.setRaw bytes s).height = s.height := rfl
@[simp] theorem State.setRaw_frate (bytes : List Byte) (s : State) : (State.setRaw bytes s).frate = s.frate := rfl
@[simp] theorem State.setRaw_fcount (bytes : List Byte) (s : State) : (State.setRaw bytes s).fcount = s.fcount := rfl
@[simp] theorem State.setRaw_fault (bytes : List Byte) (s : State) : (State.setRaw bytes s).fault = s.fault := rfl
@[simp] theorem State.setRaw_err (bytes : List Byte) (s : State) : (State.setRaw bytes s).err = s.err := rfl
@[simp] theorem State.setRaw_tag (bytes : List Byte) (s : State) : (State.setRaw bytes s).tag = none := rfl
@[simp] theorem State.setRaw_rawlen (bytes : List Byte) (s : State) : (State.setRaw bytes s).rawlen = BitVec.ofNat 32 bytes.length := rfl
@[simp] theorem State.setRaw_cmplen (bytes : List Byte) (s : State) : (State.setRaw bytes s).cmplen = 0 := rfl
@[simp] theorem State.setRaw_outlen (bytes : List Byte) (s : State) : (State.setRaw bytes s).outlen = 0 := rfl
@[simp] theorem State.setRaw_pix (bytes : List Byte) (s : State) : (State.setRaw bytes s).pix = s.pix := rfl
@[simp] theorem State.setRaw_raw (bytes : List Byte) (s : State) : (State.setRaw bytes s).raw = some bytes := rfl
@[simp] theorem State.setRaw_cmp (bytes : List Byte) (s : State) : (State.setRaw bytes s).cmp = none := rfl
@[simp] theorem State.setRaw_out (bytes : List Byte) (s : State) : (State.setRaw bytes s).out = none := rfl
@[simp] theorem State.setRaw_params (bytes : List Byte) (s : State) : (State.setRaw bytes s).params = s.params := rfl
@[simp] theorem State.setRaw_host (bytes : List Byte) (s : State) : (State.setRaw bytes s).host = s.host := rfl
@[simp] theorem State.setRaw_reply (bytes : List Byte) (s : State) : (State.setRaw bytes s).reply = s.reply := rfl
@[simp] theorem State.setRaw_draws (bytes : List Byte) (s : State) : (State.setRaw bytes s).draws = s.draws := rfl

/-! ### `setCmp` -/

@[simp] theorem State.setCmp_width (bytes : List Byte) (s : State) : (State.setCmp bytes s).width = s.width := rfl
@[simp] theorem State.setCmp_height (bytes : List Byte) (s : State) : (State.setCmp bytes s).height = s.height := rfl
@[simp] theorem State.setCmp_frate (bytes : List Byte) (s : State) : (State.setCmp bytes s).frate = s.frate := rfl
@[simp] theorem State.setCmp_fcount (bytes : List Byte) (s : State) : (State.setCmp bytes s).fcount = s.fcount := rfl
@[simp] theorem State.setCmp_fault (bytes : List Byte) (s : State) : (State.setCmp bytes s).fault = s.fault := rfl
@[simp] theorem State.setCmp_err (bytes : List Byte) (s : State) : (State.setCmp bytes s).err = s.err := rfl
@[simp] theorem State.setCmp_tag (bytes : List Byte) (s : State) : (State.setCmp bytes s).tag = none := rfl
@[simp] theorem State.setCmp_rawlen (bytes : List Byte) (s : State) : (State.setCmp bytes s).rawlen = s.rawlen := rfl
@[simp] theorem State.setCmp_cmplen (bytes : List Byte) (s : State) : (State.setCmp bytes s).cmplen = BitVec.ofNat 32 bytes.length := rfl
@[simp] theorem State.setCmp_outlen (bytes : List Byte) (s : State) : (State.setCmp bytes s).outlen = 0 := rfl
@[simp] theorem State.setCmp_pix (bytes : List Byte) (s : State) : (State.setCmp bytes s).pix = s.pix := rfl
@[simp] theorem State.setCmp_raw (bytes : List Byte) (s : State) : (State.setCmp bytes s).raw = s.raw := rfl
@[simp] theorem State.setCmp_cmp (bytes : List Byte) (s : State) : (State.setCmp bytes s).cmp = some bytes := rfl
@[simp] theorem State.setCmp_out (bytes : List Byte) (s : State) : (State.setCmp bytes s).out = none := rfl
@[simp] theorem State.setCmp_params (bytes : List Byte) (s : State) : (State.setCmp bytes s).params = s.params := rfl
@[simp] theorem State.setCmp_host (bytes : List Byte) (s : State) : (State.setCmp bytes s).host = s.host := rfl
@[simp] theorem State.setCmp_reply (bytes : List Byte) (s : State) : (State.setCmp bytes s).reply = s.reply := rfl
@[simp] theorem State.setCmp_draws (bytes : List Byte) (s : State) : (State.setCmp bytes s).draws = s.draws := rfl

/-! ### `setTag` -/

@[simp] theorem State.setTag_width (t : Bool) (s : State) : (State.setTag t s).width = s.width := rfl
@[simp] theorem State.setTag_height (t : Bool) (s : State) : (State.setTag t s).height = s.height := rfl
@[simp] theorem State.setTag_frate (t : Bool) (s : State) : (State.setTag t s).frate = s.frate := rfl
@[simp] theorem State.setTag_fcount (t : Bool) (s : State) : (State.setTag t s).fcount = s.fcount := rfl
@[simp] theorem State.setTag_fault (t : Bool) (s : State) : (State.setTag t s).fault = s.fault := rfl
@[simp] theorem State.setTag_err (t : Bool) (s : State) : (State.setTag t s).err = s.err := rfl
@[simp] theorem State.setTag_tag (t : Bool) (s : State) : (State.setTag t s).tag = some t := rfl
@[simp] theorem State.setTag_rawlen (t : Bool) (s : State) : (State.setTag t s).rawlen = s.rawlen := rfl
@[simp] theorem State.setTag_cmplen (t : Bool) (s : State) : (State.setTag t s).cmplen = s.cmplen := rfl
@[simp] theorem State.setTag_outlen (t : Bool) (s : State) : (State.setTag t s).outlen = 0 := rfl
@[simp] theorem State.setTag_pix (t : Bool) (s : State) : (State.setTag t s).pix = s.pix := rfl
@[simp] theorem State.setTag_raw (t : Bool) (s : State) : (State.setTag t s).raw = s.raw := rfl
@[simp] theorem State.setTag_cmp (t : Bool) (s : State) : (State.setTag t s).cmp = s.cmp := rfl
@[simp] theorem State.setTag_out (t : Bool) (s : State) : (State.setTag t s).out = none := rfl
@[simp] theorem State.setTag_params (t : Bool) (s : State) : (State.setTag t s).params = s.params := rfl
@[simp] theorem State.setTag_host (t : Bool) (s : State) : (State.setTag t s).host = s.host := rfl
@[simp] theorem State.setTag_reply (t : Bool) (s : State) : (State.setTag t s).reply = s.reply := rfl
@[simp] theorem State.setTag_draws (t : Bool) (s : State) : (State.setTag t s).draws = s.draws := rfl

/-! ### `setOut` -/

@[simp] theorem State.setOut_width (bytes : List Byte) (s : State) : (State.setOut bytes s).width = s.width := rfl
@[simp] theorem State.setOut_height (bytes : List Byte) (s : State) : (State.setOut bytes s).height = s.height := rfl
@[simp] theorem State.setOut_frate (bytes : List Byte) (s : State) : (State.setOut bytes s).frate = s.frate := rfl
@[simp] theorem State.setOut_fcount (bytes : List Byte) (s : State) : (State.setOut bytes s).fcount = s.fcount := rfl
@[simp] theorem State.setOut_fault (bytes : List Byte) (s : State) : (State.setOut bytes s).fault = s.fault := rfl
@[simp] theorem State.setOut_err (bytes : List Byte) (s : State) : (State.setOut bytes s).err = s.err := rfl
@[simp] theorem State.setOut_tag (bytes : List Byte) (s : State) : (State.setOut bytes s).tag = s.tag := rfl
@[simp] theorem State.setOut_rawlen (bytes : List Byte) (s : State) : (State.setOut bytes s).rawlen = s.rawlen := rfl
@[simp] theorem State.setOut_cmplen (bytes : List Byte) (s : State) : (State.setOut bytes s).cmplen = s.cmplen := rfl
@[simp] theorem State.setOut_outlen (bytes : List Byte) (s : State) : (State.setOut bytes s).outlen = BitVec.ofNat 32 bytes.length := rfl
@[simp] theorem State.setOut_pix (bytes : List Byte) (s : State) : (State.setOut bytes s).pix = s.pix := rfl
@[simp] theorem State.setOut_raw (bytes : List Byte) (s : State) : (State.setOut bytes s).raw = s.raw := rfl
@[simp] theorem State.setOut_cmp (bytes : List Byte) (s : State) : (State.setOut bytes s).cmp = s.cmp := rfl
@[simp] theorem State.setOut_out (bytes : List Byte) (s : State) : (State.setOut bytes s).out = some bytes := rfl
@[simp] theorem State.setOut_params (bytes : List Byte) (s : State) : (State.setOut bytes s).params = s.params := rfl
@[simp] theorem State.setOut_host (bytes : List Byte) (s : State) : (State.setOut bytes s).host = s.host := rfl
@[simp] theorem State.setOut_reply (bytes : List Byte) (s : State) : (State.setOut bytes s).reply = s.reply := rfl
@[simp] theorem State.setOut_draws (bytes : List Byte) (s : State) : (State.setOut bytes s).draws = s.draws := rfl

/-! ### `raise` -/

@[simp] theorem State.raise_width (f : FaultCode) (op : Byte) (s : State) : (State.raise f op s).width = s.width := rfl
@[simp] theorem State.raise_height (f : FaultCode) (op : Byte) (s : State) : (State.raise f op s).height = s.height := rfl
@[simp] theorem State.raise_frate (f : FaultCode) (op : Byte) (s : State) : (State.raise f op s).frate = s.frate := rfl
@[simp] theorem State.raise_fcount (f : FaultCode) (op : Byte) (s : State) : (State.raise f op s).fcount = s.fcount := rfl
@[simp] theorem State.raise_fault (f : FaultCode) (op : Byte) (s : State) : (State.raise f op s).fault = true := rfl
@[simp] theorem State.raise_err (f : FaultCode) (op : Byte) (s : State) : (State.raise f op s).err = errWord f op := rfl
@[simp] theorem State.raise_tag (f : FaultCode) (op : Byte) (s : State) : (State.raise f op s).tag = none := rfl
@[simp] theorem State.raise_rawlen (f : FaultCode) (op : Byte) (s : State) : (State.raise f op s).rawlen = 0 := rfl
@[simp] theorem State.raise_cmplen (f : FaultCode) (op : Byte) (s : State) : (State.raise f op s).cmplen = 0 := rfl
@[simp] theorem State.raise_outlen (f : FaultCode) (op : Byte) (s : State) : (State.raise f op s).outlen = 0 := rfl
@[simp] theorem State.raise_pix (f : FaultCode) (op : Byte) (s : State) : (State.raise f op s).pix = s.pix := rfl
@[simp] theorem State.raise_raw (f : FaultCode) (op : Byte) (s : State) : (State.raise f op s).raw = none := rfl
@[simp] theorem State.raise_cmp (f : FaultCode) (op : Byte) (s : State) : (State.raise f op s).cmp = none := rfl
@[simp] theorem State.raise_out (f : FaultCode) (op : Byte) (s : State) : (State.raise f op s).out = none := rfl
@[simp] theorem State.raise_params (f : FaultCode) (op : Byte) (s : State) : (State.raise f op s).params = s.params := rfl
@[simp] theorem State.raise_host (f : FaultCode) (op : Byte) (s : State) : (State.raise f op s).host = s.host := rfl
@[simp] theorem State.raise_reply (f : FaultCode) (op : Byte) (s : State) : (State.raise f op s).reply = s.reply := rfl
@[simp] theorem State.raise_draws (f : FaultCode) (op : Byte) (s : State) : (State.raise f op s).draws = s.draws := rfl

/-! ### `hwReset` -/

@[simp] theorem State.hwReset_width (s : State) : (s.hwReset).width = 0 := rfl
@[simp] theorem State.hwReset_height (s : State) : (s.hwReset).height = 0 := rfl
@[simp] theorem State.hwReset_frate (s : State) : (s.hwReset).frate = 0 := rfl
@[simp] theorem State.hwReset_fcount (s : State) : (s.hwReset).fcount = 0 := rfl
@[simp] theorem State.hwReset_fault (s : State) : (s.hwReset).fault = false := rfl
@[simp] theorem State.hwReset_err (s : State) : (s.hwReset).err = 0 := rfl
@[simp] theorem State.hwReset_tag (s : State) : (s.hwReset).tag = none := rfl
@[simp] theorem State.hwReset_rawlen (s : State) : (s.hwReset).rawlen = 0 := rfl
@[simp] theorem State.hwReset_cmplen (s : State) : (s.hwReset).cmplen = 0 := rfl
@[simp] theorem State.hwReset_outlen (s : State) : (s.hwReset).outlen = 0 := rfl
@[simp] theorem State.hwReset_pix (s : State) : (s.hwReset).pix = [] := rfl
@[simp] theorem State.hwReset_raw (s : State) : (s.hwReset).raw = none := rfl
@[simp] theorem State.hwReset_cmp (s : State) : (s.hwReset).cmp = none := rfl
@[simp] theorem State.hwReset_out (s : State) : (s.hwReset).out = none := rfl
@[simp] theorem State.hwReset_params (s : State) : (s.hwReset).params = s.params := rfl
@[simp] theorem State.hwReset_host (s : State) : (s.hwReset).host = s.host := rfl
@[simp] theorem State.hwReset_reply (s : State) : (s.hwReset).reply = s.reply := rfl
@[simp] theorem State.hwReset_draws (s : State) : (s.hwReset).draws = s.draws := rfl

/-! ### What the computed operands depend on -/

theorem State.compress_congr {s t : State} (h : s.params = t.params) : s.compress = t.compress := by
  funext b
  simp only [State.compress, h]

theorem State.rawLimit_congr {s t : State} (h : s.params = t.params) : s.rawLimit = t.rawLimit := by
  simp only [State.rawLimit, h]

theorem State.pixCells_congr {s t : State} (h : s.params = t.params) : s.pixCells = t.pixCells := by
  simp only [State.pixCells, State.rawLimit_congr h]

theorem State.rawBytes_congr {s t : State} (hw : s.width = t.width) (hh : s.height = t.height) :
    s.rawBytes = t.rawBytes := by
  simp only [State.rawBytes, State.stride, hw, hh]

theorem State.pixelCount_congr {s t : State} (hw : s.width = t.width) (hh : s.height = t.height) :
    s.pixelCount = t.pixelCount := by
  simp only [State.pixelCount, hw, hh]

theorem State.laneBit_congr {s t : State} (hw : s.width = t.width) (hp : s.pix = t.pix) :
    s.laneBit = t.laneBit := by
  funext y k j
  simp only [State.laneBit, hw, hp]

theorem State.packed_congr {s t : State} (hw : s.width = t.width) (hh : s.height = t.height)
    (hp : s.pix = t.pix) : s.packed = t.packed := by
  simp only [State.packed, State.rawBytes, State.stride, State.laneBit_congr hw hp, hw, hh]

end Sys2Proof.Machine
end

