-- ==== Sys2Proof/Laws/Ops.lean ====
section
/-! SUPPORT. Everything each shared operation and each instruction can do, said once. -/

namespace Sys2Proof.Machine

@[simp] theorem unlessFaulted_of_fault {s : State} (k : State → State) (h : s.fault = true) :
    unlessFaulted k s = s := by simp [unlessFaulted, h]

@[simp] theorem unlessFaulted_of_ok {s : State} (k : State → State) (h : s.fault = false) :
    unlessFaulted k s = k s := by simp [unlessFaulted, h]

/-- An operation under the fault lock changes nothing, or runs on a block that is not faulted (R174). -/
theorem unlessFaulted_cases {k : State → State} {s t : State} (h : t = unlessFaulted k s) :
    t = s ∨ (s.fault = false ∧ t = k s) := by
  cases hf : s.fault with
  | true => exact .inl (by rw [h, unlessFaulted_of_fault k hf])
  | false => exact .inr ⟨rfl, by rw [h, unlessFaulted_of_ok k hf]⟩

/-- PACK raises a fault, or packs a complete image that fits (R104). -/
theorem packOp_cases (s : State) :
    (∃ f, packOp s = s.raise f 0x01) ∨
    (s.width ≠ 0#32 ∧ s.height ≠ 0#32 ∧ s.rawBytes ≤ s.rawLimit ∧ s.imageComplete = true ∧
      packOp s = s.setRaw s.packed) := by
  unfold packOp
  split
  · exact .inl ⟨_, rfl⟩
  · split
    · exact .inl ⟨_, rfl⟩
    · split
      · exact .inl ⟨_, rfl⟩
      · rename_i h1 h2 h3
        exact .inr ⟨fun h => h1 (.inl h), fun h => h1 (.inr h), Nat.le_of_not_lt h2, by simpa using h3, rfl⟩

/-- COMPRESS raises a fault, or writes the Compressed Block of RAW (R122). -/
theorem compressOp_cases (s : State) :
    (∃ f, compressOp s = s.raise f 0x02) ∨
    ∃ raw, s.raw = some raw ∧ (s.compress raw).length ≤ Config.lenMax ∧
      compressOp s = s.setCmp (u16le (s.compress raw).length ++ s.compress raw) := by
  unfold compressOp
  split
  · exact .inl ⟨_, rfl⟩
  · split
    · exact .inl ⟨_, rfl⟩
    · rename_i raw hr hl
      exact .inr ⟨raw, hr, Nat.le_of_not_lt hl, rfl⟩

/-- SELECT raises `E_SEQ`, or chooses the tag from the two lengths (R131). -/
theorem selectOp_cases (s : State) :
    selectOp s = s.raise .eSeq 0x03 ∨
    (s.raw.isSome = true ∧ s.cmp.isSome = true ∧ selectOp s = s.setTag (decide (s.sizeC < s.sizeR))) := by
  unfold selectOp
  split
  · exact .inl rfl
  · rename_i h
    rw [not_or, Bool.not_eq_false, Bool.not_eq_false] at h
    exact .inr ⟨h.1, h.2, rfl⟩

/-- What `bm` is: the tag byte and the payload of a chosen tag (R141). -/
theorem State.bm_eq_some {s : State} {bm : List Byte} :
    s.bm = some bm ↔
      (∃ raw, s.tag = some false ∧ s.raw = some raw ∧ bm = 0x00 :: raw) ∨
      (∃ cmp, s.tag = some true ∧ s.cmp = some cmp ∧ bm = 0x01 :: cmp) := by
  rcases ht : s.tag with _ | _ | _ <;> simp [State.bm, State.payload, State.tagBit, tagByte, ht, eq_comm]

/-- A framing command raises `E_SEQ`, or writes the header and `bm` to OUT (R142, R144). -/
theorem frameOp_cases (op : Byte) (header : List Byte) (s : State) :
    (s.bm = none ∧ frameOp op header s = s.raise .eSeq op) ∨
    ∃ bm, s.bm = some bm ∧ frameOp op header s = s.setOut (header ++ bm) := by
  unfold frameOp
  cases h : s.bm with
  | none => exact .inl ⟨rfl, rfl⟩
  | some bm => exact .inr ⟨bm, rfl, rfl⟩

/-- A well-formed record is written unless the block is faulted. -/
theorem emitRecord_wf {i : Instr} (m : String) (write : List Byte → State → State) (s : State)
    (h : i.wellFormed = true) :
    emitRecord i m write s = .next (unlessFaulted (write (recordBytes i)) s) := by simp [emitRecord, h]

/-- An ill-formed record is refused. -/
theorem emitRecord_illFormed {i : Instr} (m : String) (write : List Byte → State → State) (s : State)
    (h : i.wellFormed = false) : emitRecord i m write s = .refused (.illFormedRecord m) := by
  simp [emitRecord, h]

theorem emitRecord_next {i : Instr} {m : String} {write : List Byte → State → State} {s t : State}
    (h : emitRecord i m write s = .next t) : t = unlessFaulted (write (recordBytes i)) s := by
  unfold emitRecord at h
  split at h
  · exact (Host.Outcome.next.inj h).symm
  · cases h

/-- Every way an instruction other than RESET can end in a next state: it changes nothing, or, on a block that is
not faulted, it raises a fault or writes the one result that is its own. -/
theorem exec_cases {i : Instr} {s t : State} (hi : i ≠ .reset) (h : exec i s = .next t) :
    t = s ∨ (s.fault = false ∧
      ((∃ f op, t = s.raise f op) ∨
       (i = .pack ∧ ∃ b, t = s.setRaw b) ∨
       ((i = .compress ∨ ∃ d, i = .cblk d) ∧ ∃ b, t = s.setCmp b) ∨
       (i = .select ∧ ∃ b, t = s.setTag b) ∨
       (i ≠ .nop ∧ ∃ b, t = s.setOut b))) := by
  cases i with
  | nop => exact .inl (Host.Outcome.next.inj h).symm
  | reset => exact absurd rfl hi
  | pack =>
    refine (unlessFaulted_cases (Host.Outcome.next.inj h).symm).imp_right fun ⟨hf, ht⟩ => ⟨hf, ?_⟩
    rcases packOp_cases s with ⟨f, hp⟩ | ⟨-, -, -, -, hp⟩
    · exact .inl ⟨f, _, ht.trans hp⟩
    · exact .inr (.inl ⟨rfl, _, ht.trans hp⟩)
  | compress =>
    refine (unlessFaulted_cases (Host.Outcome.next.inj h).symm).imp_right fun ⟨hf, ht⟩ => ⟨hf, ?_⟩
    rcases compressOp_cases s with ⟨f, hp⟩ | ⟨_, -, -, hp⟩
    · exact .inl ⟨f, _, ht.trans hp⟩
    · exact .inr (.inr (.inl ⟨.inl rfl, _, ht.trans hp⟩))
  | select =>
    refine (unlessFaulted_cases (Host.Outcome.next.inj h).symm).imp_right fun ⟨hf, ht⟩ => ⟨hf, ?_⟩
    rcases selectOp_cases s with hp | ⟨-, -, hp⟩
    · exact .inl ⟨_, _, ht.trans hp⟩
    · exact .inr (.inr (.inr (.inl ⟨rfl, _, ht.trans hp⟩)))
  | framebm =>
    refine (unlessFaulted_cases (Host.Outcome.next.inj h).symm).imp_right fun ⟨hf, ht⟩ => ⟨hf, ?_⟩
    rcases frameOp_cases 0x04 [] s with ⟨-, hp⟩ | ⟨bm, -, hp⟩
    · exact .inl ⟨_, _, ht.trans hp⟩
    · exact .inr (.inr (.inr (.inr ⟨by simp, _, ht.trans hp⟩)))
  | framebmx =>
    refine (unlessFaulted_cases (Host.Outcome.next.inj h).symm).imp_right fun ⟨hf, ht⟩ => ⟨hf, ?_⟩
    rcases frameOp_cases 0x05 (u32le s.width ++ u32le s.height) s with ⟨-, hp⟩ | ⟨bm, -, hp⟩
    · exact .inl ⟨_, _, ht.trans hp⟩
    · exact .inr (.inr (.inr (.inr ⟨by simp, _, ht.trans hp⟩)))
  | framemeta =>
    exact (unlessFaulted_cases (Host.Outcome.next.inj h).symm).imp_right fun ⟨hf, ht⟩ =>
      ⟨hf, .inr (.inr (.inr (.inr ⟨by simp, _, ht⟩)))⟩
  | cblk data =>
    exact (unlessFaulted_cases (emitRecord_next h)).imp_right fun ⟨hf, ht⟩ =>
      ⟨hf, .inr (.inr (.inl ⟨.inr ⟨data, rfl⟩, _, ht⟩))⟩
  | bmRaw raw =>
    exact (unlessFaulted_cases (emitRecord_next h)).imp_right fun ⟨hf, ht⟩ =>
      ⟨hf, .inr (.inr (.inr (.inr ⟨by simp, _, ht⟩)))⟩
  | bmCmp data =>
    exact (unlessFaulted_cases (emitRecord_next h)).imp_right fun ⟨hf, ht⟩ =>
      ⟨hf, .inr (.inr (.inr (.inr ⟨by simp, _, ht⟩)))⟩
  | bmx w hgt bm =>
    exact (unlessFaulted_cases (emitRecord_next h)).imp_right fun ⟨hf, ht⟩ =>
      ⟨hf, .inr (.inr (.inr (.inr ⟨by simp, _, ht⟩)))⟩
  | metaRec w hgt r c =>
    exact (unlessFaulted_cases (emitRecord_next (i := .metaRec w hgt r c) (m := "META") (write := State.setOut) h)).imp_right fun ⟨hf, ht⟩ =>
      ⟨hf, .inr (.inr (.inr (.inr ⟨by simp, _, ht⟩)))⟩

end Sys2Proof.Machine
end

