-- ==== Sys2Proof/Laws/PerInstr.lean ====
section
/-! SUPPORT. Statements made per instruction. Family RecordLength: what an instruction is encoded as, and how long
its record is (30_encoding.md R70, R74 to R77). -/

namespace Sys2Proof.Laws.RecordLength

/-- A command is one 32-bit word with bits 31:8 zero and stands in no buffer; a record has the total length its rule
gives it. -/
def Statement (i : Instr) : Prop :=
  match i with
  | .nop | .pack | .compress | .select | .framebm | .framebmx | .framemeta | .reset =>
    recordBytes i = [] ∧ ∃ w, encode i = .command w ∧ zeroField w = 0
  | .cblk data => (recordBytes i).length = data.length + 2
  | .bmRaw raw => (recordBytes i).length = 1 + raw.length
  | .bmCmp data => (recordBytes i).length = 3 + data.length
  | .bmx _ _ (.raw raw) => (recordBytes i).length = 8 + (1 + raw.length)
  | .bmx _ _ (.cmp data) => (recordBytes i).length = 8 + (3 + data.length)
  | .metaRec _ _ _ _ => (recordBytes i).length = 16

theorem nop : Statement .nop := ⟨rfl, _, rfl, by decide⟩
theorem pack : Statement .pack := ⟨rfl, _, rfl, by decide⟩
theorem compress : Statement .compress := ⟨rfl, _, rfl, by decide⟩
theorem select : Statement .select := ⟨rfl, _, rfl, by decide⟩
theorem framebm : Statement .framebm := ⟨rfl, _, rfl, by decide⟩
theorem framebmx : Statement .framebmx := ⟨rfl, _, rfl, by decide⟩
theorem framemeta : Statement .framemeta := ⟨rfl, _, rfl, by decide⟩
theorem reset : Statement .reset := ⟨rfl, _, rfl, by decide⟩

theorem cblk (data : List Byte) : Statement (.cblk data) := by
  simp [Statement, recordBytes, encode, u16le, leBytes]

theorem bmRaw (raw : List Byte) : Statement (.bmRaw raw) := by
  simp [Statement, recordBytes, encode, encodeBm]
  omega

theorem bmCmp (data : List Byte) : Statement (.bmCmp data) := by
  simp [Statement, recordBytes, encode, encodeBm, u16le, leBytes]
  omega

theorem bmx (width height : Word) (bm : Bm) : Statement (.bmx width height bm) := by
  cases bm <;> simp [Statement, recordBytes, encode, encodeBm, u16le, u32le, leBytes] <;> omega

theorem metaRec (width height frameRate frameCount : Word) :
    Statement (.metaRec width height frameRate frameCount) := by
  simp [Statement, recordBytes, encode, u32le, leBytes]

end Sys2Proof.Laws.RecordLength
end

