-- ==== Sys2Proof/Laws/Step.lean ====
section
/-! SUPPORT. What the host's transactions and one step can do, said once; every invariant is derived from
`step_cases`. -/

namespace Sys2Proof.Machine

/-- Only offset 0x10 is CMD (R20). -/
theorem Reg.at?_eq_cmd {o : Nat} (h : Reg.at? o = some .cmd) : o = 0x10 := by
  unfold Reg.at? at h
  split at h <;> first | rfl | cases h

/-- A command word is its reserved bits and its opcode (R70). -/
theorem eq_of_fields {w : Word} (hz : zeroField w = 0) : w = BitVec.ofNat 32 (opcField w).toNat := by
  have h := congrArg BitVec.toNat hz
  apply BitVec.eq_of_toNat_eq
  have hw := w.isLt
  simp [zeroField, opcField, BitVec.extractLsb'_toNat, Nat.shiftRight_eq_div_pow] at h ⊢
  omega

/-- A word that decodes is the command word of what it decodes to (R72). -/
theorem decodeCommand_ok {w : Word} {i : Instr} (h : decodeCommand w = .ok i) : encode i = .command w := by
  unfold decodeCommand at h
  split at h
  · cases h
  · rename_i hz
    rw [ne_eq, not_not] at hz
    rw [eq_of_fields hz]
    unfold decodeOpc at h
    split at h <;> first | (cases h; done) | (cases h; rename_i ho; rw [ho]; rfl)

/-- The eight words that decode, with their instructions (R72). -/
theorem decodeCommand_cases {w : Word} {i : Instr} (h : decodeCommand w = .ok i) :
    (w = 0x00 ∧ i = .nop) ∨ (w = 0x01 ∧ i = .pack) ∨ (w = 0x02 ∧ i = .compress) ∨ (w = 0x03 ∧ i = .select) ∨
    (w = 0x04 ∧ i = .framebm) ∨ (w = 0x05 ∧ i = .framebmx) ∨ (w = 0x06 ∧ i = .framemeta) ∨
    (w = 0x0F ∧ i = .reset) := by
  have he := decodeCommand_ok h
  cases i <;> simp only [encode, reduceCtorEq] at he <;> cases he <;> simp

/-- What a write of `w` to CMD can do (R71, R160): it is ignored, it is RESET, or, on a block that is not faulted,
it raises `E_CMD` or has the effect of the command it names. -/
theorem execCommand_cases {w : Word} {s t : State} (h : execCommand w s = .next t) :
    t = s ∨ (w = 0x0F ∧ t = s.hwReset) ∨ (s.fault = false ∧
      (t = s.raise .eCmd (opcField w) ∨
       (w = 0x01 ∧ t = packOp s) ∨ (w = 0x02 ∧ t = compressOp s) ∨ (w = 0x03 ∧ t = selectOp s) ∨
       (w = 0x04 ∧ t = frameOp 0x04 [] s) ∨
       (w = 0x05 ∧ t = frameOp 0x05 (u32le s.width ++ u32le s.height) s) ∨
       (w = 0x06 ∧
        t = s.setOut (u32le s.width ++ u32le s.height ++ u32le s.frate ++ u32le s.fcount)))) := by
  unfold execCommand at h
  split at h
  · exact .inl (Host.Outcome.next.inj h).symm
  · rename_i hl
    split at h
    · rename_i e hd
      have hf : s.fault = false := by
        cases hs : s.fault with
        | false => rfl
        | true =>
          have hw : w = resetWord := by
            by_contra hne
            exact hl ⟨hs, hne⟩
          rw [hw, show decodeCommand resetWord = .ok .reset from by decide] at hd
          cases hd
      exact .inr (.inr ⟨hf, .inl (Host.Outcome.next.inj h).symm⟩)
    · rename_i i hd
      rcases decodeCommand_cases hd with ⟨hw, rfl⟩ | ⟨hw, rfl⟩ | ⟨hw, rfl⟩ | ⟨hw, rfl⟩ | ⟨hw, rfl⟩ | ⟨hw, rfl⟩ |
        ⟨hw, rfl⟩ | ⟨hw, rfl⟩
      case inr.inr.inr.inr.inr.inr.inr => exact .inr (.inl ⟨hw, (Host.Outcome.next.inj h).symm⟩)
      case inl => exact .inl (Host.Outcome.next.inj h).symm
      all_goals
        have ht := (Host.Outcome.next.inj h).symm
        cases hf : s.fault with
        | true => exact .inl (by simpa [hf] using ht)
        | false =>
          rw [unlessFaulted_of_ok _ hf] at ht
          exact .inr (.inr ⟨rfl, by simp [hw, ht]⟩)

/-- A write to a register other than CMD writes one data register and clears what R37 says, or is ignored. -/
theorem writeReg_cases (r : Option Reg) (v : Word) (s : State) :
    writeReg r v s = { s.dropRaw with width := v } ∨ writeReg r v s = { s.dropRaw with height := v } ∨
    writeReg r v s = { s.dropOut with frate := v } ∨ writeReg r v s = { s.dropOut with fcount := v } ∨
    writeReg r v s = s := by
  unfold writeReg
  split <;> simp

/-- What a transaction `x` can do to the block, from `s` to `t`: nothing; a reset; or, if the block is not faulted,
it takes a fault by a command whose low byte ERR.OP then holds, gets one result, or has one register or one pixel written. -/
def BlockEffect (x : Option Txn) (s t : State) : Prop :=
  t = s ∨
  (t = s.hwReset ∧ (x = some .hardReset ∨ x = some (.regWrite 0x10 0x0F))) ∨
  (s.fault = false ∧
    ((∃ f w, x = some (.regWrite 0x10 w) ∧ t = s.raise f (opcField w)) ∨
     (x = some (.regWrite 0x10 0x01) ∧ s.width ≠ 0#32 ∧ s.height ≠ 0#32 ∧ s.rawBytes ≤ s.rawLimit ∧
      s.imageComplete = true ∧ t = s.setRaw s.packed) ∨
     (x = some (.regWrite 0x10 0x02) ∧ ∃ raw, s.raw = some raw ∧ (s.compress raw).length ≤ Config.lenMax ∧
      t = s.setCmp (u16le (s.compress raw).length ++ s.compress raw)) ∨
     (x = some (.regWrite 0x10 0x03) ∧ s.raw.isSome = true ∧ s.cmp.isSome = true ∧
      t = s.setTag (decide (s.sizeC < s.sizeR))) ∨
     (x = some (.regWrite 0x10 0x04) ∧ ∃ bm, s.bm = some bm ∧ t = s.setOut bm) ∨
     (x = some (.regWrite 0x10 0x05) ∧ ∃ bm, s.bm = some bm ∧
      t = s.setOut (u32le s.width ++ u32le s.height ++ bm)) ∨
     (x = some (.regWrite 0x10 0x06) ∧
      t = s.setOut (u32le s.width ++ u32le s.height ++ u32le s.frate ++ u32le s.fcount)) ∨
     (∃ reg v, t = writeReg reg v s) ∨
     (∃ i b, i < s.pixCells ∧ t = { s.dropRaw with pix := s.pix.write i b })))

/-- A write of `w` to CMD has one of these effects. -/
theorem execCommand_effect {w : Word} {s t : State} (h : execCommand w s = .next t) :
    BlockEffect (some (.regWrite 0x10 w)) s t := by
  rcases execCommand_cases h with ht | ⟨rfl, ht⟩ | ⟨hf, ht⟩
  · exact .inl ht
  · exact .inr (.inl ⟨ht, .inr rfl⟩)
  · refine .inr (.inr ⟨hf, ?_⟩)
    rcases ht with ht | ⟨rfl, rfl⟩ | ⟨rfl, rfl⟩ | ⟨rfl, rfl⟩ | ⟨rfl, rfl⟩ | ⟨rfl, rfl⟩ | ⟨rfl, rfl⟩
    · exact .inl ⟨_, w, rfl, ht⟩
    · rcases packOp_cases s with ⟨f, hp⟩ | ⟨hw, hh, hn, hc, hp⟩
      · exact .inl ⟨f, _, rfl, hp⟩
      · exact .inr (.inl ⟨rfl, hw, hh, hn, hc, hp⟩)
    · rcases compressOp_cases s with ⟨f, hp⟩ | hp
      · exact .inl ⟨f, _, rfl, hp⟩
      · exact .inr (.inr (.inl ⟨rfl, hp⟩))
    · rcases selectOp_cases s with hp | ⟨hr, hc, hp⟩
      · exact .inl ⟨_, _, rfl, hp⟩
      · exact .inr (.inr (.inr (.inl ⟨rfl, hr, hc, hp⟩)))
    · rcases frameOp_cases 0x04 [] s with ⟨-, hp⟩ | ⟨bm, hb, hp⟩
      · exact .inl ⟨_, _, rfl, hp⟩
      · exact .inr (.inr (.inr (.inr (.inl ⟨rfl, bm, hb, hp⟩))))
    · rcases frameOp_cases 0x05 (u32le s.width ++ u32le s.height) s with ⟨-, hp⟩ | ⟨bm, hb, hp⟩
      · exact .inl ⟨_, _, rfl, hp⟩
      · exact .inr (.inr (.inr (.inr (.inr (.inl ⟨rfl, bm, hb, hp⟩)))))
    · exact .inr (.inr (.inr (.inr (.inr (.inr (.inl ⟨rfl, rfl⟩))))))

/-- Everything one transaction can do. Its reply and the count of free bytes may change; beyond that it has one of
the effects above. -/
theorem execTxn_cases {x : Txn} {s t : State} (h : execTxn x s = .next t) :
    ∃ (r : Reply) (d : Nat), BlockEffect (some x) { s with reply := r, draws := d } t := by
  cases x with
  | regRead o =>
    simp only [execTxn, execRegRead] at h
    split at h
    · exact ⟨_, s.draws, .inl (Host.Outcome.next.inj h).symm⟩
    · cases h
  | bufRead sp a =>
    simp only [execTxn, execBufRead] at h
    split at h
    · exact ⟨_, s.draws, .inl (Host.Outcome.next.inj h).symm⟩
    · exact ⟨_, _, .inl (Host.Outcome.next.inj h).symm⟩
  | hardReset => exact ⟨.none, s.draws, .inr (.inl ⟨(Host.Outcome.next.inj h).symm, .inl rfl⟩)⟩
  | pixWrite i b =>
    simp only [execTxn, execPixWrite] at h
    split at h
    · rename_i hi
      refine ⟨.none, s.draws, ?_⟩
      rcases unlessFaulted_cases (Host.Outcome.next.inj h).symm with ht | ⟨hf, ht⟩
      · exact .inl ht
      · exact .inr (.inr ⟨hf, .inr (.inr (.inr (.inr (.inr (.inr (.inr (.inr ⟨i, b, hi, ht⟩)))))))⟩)
    · cases h
  | regWrite o v =>
    simp only [execTxn, execRegWrite] at h
    split at h
    · refine ⟨.none, s.draws, ?_⟩
      split at h
      · rename_i ho
        obtain rfl := Reg.at?_eq_cmd ho
        exact execCommand_effect h
      · rcases unlessFaulted_cases (Host.Outcome.next.inj h).symm with ht | ⟨hf, ht⟩
        · exact .inl ht
        · exact .inr (.inr ⟨hf, .inr (.inr (.inr (.inr (.inr (.inr (.inr (.inl ⟨_, v, ht⟩)))))))⟩)
    · cases h

/-- Everything a step can do: wait, or the effect of the host's next transaction. -/
theorem step_cases {s t : State} (h : step s = .next t) :
    ∃ (rest : List Txn) (r : Reply) (d : Nat),
      BlockEffect s.host.head? { s with host := rest, reply := r, draws := d } t := by
  unfold step at h
  split at h
  · exact ⟨s.host, s.reply, s.draws, .inl (Host.Outcome.next.inj h).symm⟩
  · rename_i x rest hx
    obtain ⟨r, d, he⟩ := execTxn_cases h
    exact ⟨rest, r, d, by rw [hx]; exact he⟩

end Sys2Proof.Machine
end

