-- ==== Sys2Proof/Tests/Slice0.lean ====
section
/-! SUPPORT. Small tests. Expected results are the vectors of spec/95_test_vectors.md and the encodings of
spec/30_encoding.md, never the model's own answers; the second half names, for each obligation with hypotheses, a
concrete state and operands that meet them. -/

namespace Sys2Proof.Tests

open Sys2Proof.Machine Sys2Proof.Safety

/-! ### Helpers -/

/-- The next state, where there is one. -/
def after (o : Host.Outcome State Fault Refusal) : Option State :=
  match o with
  | .next s => some s
  | .fault _ => none
  | .refused _ => none

/-- The pixel cells of an image, from cell 0 on: true for `.` (white), false for `#` (black). -/
def cells (bits : List Bool) : Memory := bits.zipIdx.map fun p => (p.2, p.1)

/-- Reset, with `MAX_RAW = ∞` and the listed values of `compress`. -/
def base (known : List (List Byte × List Byte)) : State := { State.reset with params := ⟨none, known⟩ }

/-- A `w` by `h` image in place. -/
def image (w h : Nat) (bits : List Bool) (known : List (List Byte × List Byte)) : State :=
  { base known with width := BitVec.ofNat 32 w, height := BitVec.ofNat 32 h, pix := cells bits }

/-- `n` pixels of one colour. -/
def flat (n : Nat) (b : Bool) : List Bool := List.replicate n b

/-- A 1 by 1 black image, packed, compressed by a stand-in that returns the byte 0xAA, and selected: a tie is out of
reach and the raw form wins (`size_c = 5`, `size_r = 2`). -/
def rawWins : State :=
  { image 1 1 [false] [([0x01], [0xAA])] with
    raw := some [0x01], rawlen := 1, cmp := some [0x01, 0x00, 0xAA], cmplen := 3, tag := some false }

/-- A 32 by 1 black image, packed, compressed by a stand-in that returns no byte (V-S7: `N` = 4, `L` = 0), and
selected: the compressed form wins. -/
def cmpWins : State :=
  { image 32 1 (flat 32 false) [([0xFF, 0xFF, 0xFF, 0xFF], [])] with
    raw := some [0xFF, 0xFF, 0xFF, 0xFF], rawlen := 4, cmp := some [0x00, 0x00], cmplen := 2, tag := some true }

/-- A faulted block. -/
def faulted : State := { base [] with fault := true, err := 0x00000304, width := 8 }

/-! ### Well-formedness: an ill-formed term for each check -/

theorem test_illFormed_refused :
    (Instr.bmRaw []).wellFormed = false ∧
    (Instr.bmx 9 1 (.raw [0x00])).wellFormed = false ∧
    (Instr.bmx 0 1 (.cmp [])).wellFormed = false ∧
    (Instr.bmx 1 0 (.cmp [])).wellFormed = false ∧
    Txn.wellFormed 8 (.regRead 2) = false ∧
    Txn.wellFormed 8 (.regWrite 0x11 0) = false ∧
    Txn.wellFormed 8 (.pixWrite 8 true) = false := by decide

theorem test_tooLong_refused (data : List Byte) (h : data.length = 65536) :
    (Instr.cblk data).wellFormed = false ∧ (Instr.bmCmp data).wellFormed = false ∧
    (Instr.bmx 1 1 (.cmp data)).wellFormed = false := by
  simp [Instr.wellFormed, Bm.wellFormed, h, Config.lenMax, Config.lenW]

theorem test_overCapacity_refused (raw : List Byte) (h : raw.length = 2 ^ 32 - 9) :
    (Instr.bmRaw raw).wellFormed = false := by
  simp [Instr.wellFormed, Bm.wellFormed, h, Config.rawCeiling]

/-! ### Decoding: words written out bit by bit from R70, R72 and R74 to R77 -/

/-- R72, format CW of R70: bits 31:8 zero, bits 7:0 the opcode. -/
theorem test_decode_command_words :
    decodeCommand 0b00000000000000000000000000000000#32 = .ok .nop ∧
    decodeCommand 0b00000000000000000000000000000001#32 = .ok .pack ∧
    decodeCommand 0b00000000000000000000000000000010#32 = .ok .compress ∧
    decodeCommand 0b00000000000000000000000000000011#32 = .ok .select ∧
    decodeCommand 0b00000000000000000000000000000100#32 = .ok .framebm ∧
    decodeCommand 0b00000000000000000000000000000101#32 = .ok .framebmx ∧
    decodeCommand 0b00000000000000000000000000000110#32 = .ok .framemeta ∧
    decodeCommand 0b00000000000000000000000000001111#32 = .ok .reset := by decide

/-- R73 at its boundaries, with the low byte R178 records. -/
theorem test_decode_illegal_words :
    decodeCommand 0x00000007 = .error (.unknownOpcode 0x07) ∧
    decodeCommand 0x0000000E = .error (.unknownOpcode 0x0E) ∧
    decodeCommand 0x00000010 = .error (.unknownOpcode 0x10) ∧
    decodeCommand 0x000000FF = .error (.unknownOpcode 0xFF) ∧
    decodeCommand 0x00000100 = .error (.reservedBits 0x00) ∧
    decodeCommand 0x00010001 = .error (.reservedBits 0x01) ∧
    decodeCommand 0xFFFFFFFF = .error (.reservedBits 0xFF) := by decide

/-- R74 on V-C1; R75 on V-F1 and V-F2; R76 on V-F3 and V-F4; R77 on V-F5. -/
theorem test_decode_records :
    decodeRecord .cblk [0x02, 0x00, 0x55, 0xAA] = .ok (.cblk [0x55, 0xAA]) ∧
    decodeRecord .bm [0x00, 0x01, 0x02] = .ok (.bmRaw [0x01, 0x02]) ∧
    decodeRecord .bm [0x01, 0x03, 0x00, 0xAA, 0xBB, 0xCC] = .ok (.bmCmp [0xAA, 0xBB, 0xCC]) ∧
    decodeRecord .bmx [0x08, 0, 0, 0, 0x02, 0, 0, 0, 0x00, 0x55, 0xAA] = .ok (.bmx 8 2 (.raw [0x55, 0xAA])) ∧
    decodeRecord .bmx [0x0A, 0, 0, 0, 0x14, 0, 0, 0, 0x01, 0x02, 0x00, 0x28, 0x00] =
      .ok (.bmx 10 20 (.cmp [0x28, 0x00])) ∧
    decodeRecord .metaRec [0x10, 0, 0, 0, 0x10, 0, 0, 0, 0x18, 0, 0, 0, 0x03, 0, 0, 0] =
      .ok (.metaRec 16 16 24 3) := by decide

/-- R79 (tag 2), R74 (a length field that is not the data's length), R76 and R77 (short and long headers), R80 (a raw
payload that does not fit the BMX header), R34 (an empty raw payload). -/
theorem test_decode_bad_records :
    decodeRecord .bm [0x02, 0x00] = .error (.reservedTag 0x02) ∧
    decodeRecord .cblk [0x03, 0x00, 0x55, 0xAA] = .error .lengthField ∧
    decodeRecord .cblk [0x00] = .error .headerLength ∧
    decodeRecord .bmx [0x08, 0, 0, 0, 0x02, 0, 0] = .error .headerLength ∧
    decodeRecord .metaRec (List.replicate 17 0) = .error .headerLength ∧
    decodeRecord .bmx [0x08, 0, 0, 0, 0x03, 0, 0, 0, 0x00, 0x55, 0xAA] = .error .payloadLength ∧
    decodeRecord .bm [0x00] = .error .payloadLength := by decide

/-- The two kinds of table row the host asks about. -/
theorem test_decodeTableWord :
    decodeTableWord 32 0x0F = some .reset ∧ decodeTableWord 32 0x07 = none ∧
    decodeTableWord 8 0x00 = some (.bmRaw [0x00]) ∧ decodeTableWord 8 0x01 = some (.bmCmp []) ∧
    decodeTableWord 8 0x02 = none := by decide

/-! ### PACK -/

/-- V-P3, V-P5, V-P6, V-P7, V-P9. -/
theorem test_pack_bytes :
    (image 10 1 ([false] ++ flat 8 true ++ [false]) []).packed = [0x01, 0x02] ∧
    (image 8 2 [false, true, false, true, false, true, false, true,
                true, false, true, false, true, false, true, false] []).packed = [0x55, 0xAA] ∧
    (image 10 2 (flat 20 false) []).packed = [0xFF, 0x03, 0xFF, 0x03] ∧
    (image 3 3 [false, true, true, true, false, true, true, true, false] []).packed = [0x01, 0x02, 0x04] ∧
    (image 9 1 (flat 8 true ++ [false]) []).packed = [0x00, 0x01] := by decide

/-- V-P12, V-P13, V-P14, V-P15, V-P18, V-P19, V-P16's size, V-P20 and V-P11's stride: which fault, or success. -/
theorem test_pack_outcomes :
    (after (exec .pack (image 0 5 [] []))).map (·.err) = some 0x00000102 ∧
    (after (exec .pack (image 8 0 [] []))).map (·.err) = some 0x00000102 ∧
    (after (exec .pack (image 8 1 (flat 7 true) []))).map (·.err) = some 0x00000101 ∧
    (after (exec .pack { image 40 1 (flat 40 true) [] with params := ⟨some ⟨4, by decide⟩, []⟩ })).map (·.err) =
      some 0x00000103 ∧
    (after (exec .pack { image 40 1 [] [] with params := ⟨some ⟨4, by decide⟩, []⟩ })).map (·.err) =
      some 0x00000103 ∧
    (after (exec .pack (image (2 ^ 32 - 1) 8 [] []))).map (·.err) = some 0x00000103 ∧
    (after (exec .pack (image 8 1 (flat 8 true) []))).map (·.statusWord) = some 0x00000001 ∧
    (image (2 ^ 32 - 1) 1 [] []).stride = 2 ^ 29 := by decide

/-! ### COMPRESS, SELECT -/

/-- V-C1 and V-C3 (the function returns no bytes), V-C6. -/
theorem test_compress :
    (after (exec .compress { base [([0x55, 0xAA], [0x55, 0xAA])] with raw := some [0x55, 0xAA] })).map (·.cmp) =
      some (some [0x02, 0x00, 0x55, 0xAA]) ∧
    (after (exec .compress { base [([0x55], [])] with raw := some [0x55] })).map (·.cmp) =
      some (some [0x00, 0x00]) ∧
    (after (exec .compress (base []))).map (·.err) = some 0x00000204 := by decide

/-- V-C7: a length of 300 is written low byte first, and CMPLEN counts the prefix. -/
theorem test_compress_length_order : u16le 300 = [0x2C, 0x01] ∧ u16le 65535 = [0xFF, 0xFF] := by decide

/-- The tag for `RAWLEN` = `n` and `CMPLEN` = `c`. -/
def tagFor (n c : Word) : Option (Option Bool) :=
  (after (exec .select { base [] with raw := some [0], rawlen := n, cmp := some [0], cmplen := c })).map (·.tag)

/-- V-S1 (tie), V-S2, V-S5, V-S6, V-S7, V-S8, V-S10. -/
theorem test_select_vectors :
    tagFor 9 8 = some (some false) ∧ tagFor 9 7 = some (some true) ∧ tagFor 1000 998 = some (some true) ∧
    tagFor 1000 999 = some (some false) ∧ tagFor 4 2 = some (some true) ∧ tagFor 3 2 = some (some false) ∧
    tagFor 65539 65537 = some (some true) := by decide

/-- RAWV = 1, CMPV = 0 gives `E_SEQ`, and the fault clears RAW (Program 4). -/
theorem test_select_eSeq :
    (after (exec .select { base [] with raw := some [0], rawlen := 1 })).map
      (fun t => (t.err, t.statusWord, t.raw, t.rawlen)) = some (0x00000304, 0x00000010, none, 0) := by decide

/-! ### FRAMEBM, FRAMEBMX, FRAMEMETA -/

/-- V-F1 and V-F2. -/
theorem test_framebm :
    (after (exec .framebm { base [] with raw := some [0x01, 0x02], tag := some false })).map
      (fun t => (t.out, t.outlen)) = some (some [0x00, 0x01, 0x02], 3) ∧
    (after (exec .framebm { base [] with cmp := some [0x03, 0x00, 0xAA, 0xBB, 0xCC], tag := some true })).map
      (fun t => (t.out, t.outlen)) = some (some [0x01, 0x03, 0x00, 0xAA, 0xBB, 0xCC], 6) := by decide

/-- V-F3 and V-F4. -/
theorem test_framebmx :
    (after (exec .framebmx { base [] with
      width := 8, height := 2, raw := some [0x55, 0xAA], tag := some false })).map (·.out) =
      some (some [0x08, 0, 0, 0, 0x02, 0, 0, 0, 0x00, 0x55, 0xAA]) ∧
    (after (exec .framebmx { base [] with
      width := 10, height := 20, cmp := some [0x02, 0x00, 0x28, 0x00], tag := some true })).map (·.outlen) =
      some 13 := by decide

/-- V-F9 and V-F10. -/
theorem test_frame_eSeq :
    (after (exec .framebm (base []))).map (·.err) = some 0x00000404 ∧
    (after (exec .framebmx (base []))).map (·.err) = some 0x00000504 := by decide

/-- V-F5 (the source's own bytes) and V-F7. -/
theorem test_framemeta :
    (after (exec .framemeta { base [] with width := 16, height := 16, frate := 24, fcount := 3 })).map (·.out) =
      some (some [0x10, 0, 0, 0, 0x10, 0, 0, 0, 0x18, 0, 0, 0, 0x03, 0, 0, 0]) ∧
    (after (exec .framemeta { base [] with
      width := 0x01020304, height := 0xFFFFFFFF, frate := 256, fcount := 0 })).map (·.out) =
      some (some [0x04, 0x03, 0x02, 0x01, 0xFF, 0xFF, 0xFF, 0xFF, 0x00, 0x01, 0, 0, 0, 0, 0, 0]) := by decide

/-! ### Records -/

/-- V-C1, V-F1, V-F2 and V-F8 as records. -/
theorem test_records_written :
    (after (exec (.cblk [0x55, 0xAA]) (base []))).map (fun t => (t.cmp, t.cmplen)) =
      some (some [0x02, 0x00, 0x55, 0xAA], 4) ∧
    (after (exec (.bmRaw [0x01, 0x02]) (base []))).map (·.out) = some (some [0x00, 0x01, 0x02]) ∧
    (after (exec (.bmCmp [0xAA, 0xBB, 0xCC]) (base []))).map (·.out) =
      some (some [0x01, 0x03, 0x00, 0xAA, 0xBB, 0xCC]) ∧
    (after (exec (.bmx 1 1 (.raw [0x01])) (base []))).map (·.out) =
      some (some [0x01, 0, 0, 0, 0x01, 0, 0, 0, 0x00, 0x01]) ∧
    (after (exec (.metaRec 0 0 0 0) (base []))).map (·.outlen) = some 16 := by decide

/-! ### NOP, RESET and the host interface -/

/-- V-D1 and V-D9. -/
theorem test_nop_reset :
    after (exec .nop rawWins) = some rawWins ∧ after (exec .reset faulted) = some (base []) := by decide

/-- V-D2 to V-D6, V-D10: illegal words, and words written to a faulted block. -/
theorem test_command_words :
    (after (execCommand 0x00000007 (base []))).map (fun t => (t.err, t.statusWord)) = some (0x706, 0x10) ∧
    (after (execCommand 0x00000100 (base []))).map (·.err) = some 0x006 ∧
    (after (execCommand 0x00010001 (base []))).map (·.err) = some 0x106 ∧
    (after (execCommand 0xFFFFFFFF (base []))).map (·.err) = some 0xFF06 ∧
    after (execCommand 0x00000007 faulted) = some faulted ∧
    after (execCommand 0x0000010F faulted) = some faulted := by decide

/-- V-D7, V-D8, V-D11, V-D12, V-D15, V-D19: writes to registers and pixels. -/
theorem test_host_writes :
    (after (execTxn (.regWrite 0x00 5) faulted)).map (·.width) = some 8 ∧
    (after (execTxn (.pixWrite 0 true) faulted)).map (·.pix) = some [] ∧
    (after (execTxn (.regWrite 0x00 1) rawWins)).map (fun t => (t.statusWord, t.rawlen, t.tagWord)) =
      some (0, 0, 0) ∧
    (after (execTxn (.regWrite 0x08 1) { rawWins with out := some [0], outlen := 1 })).map
      (fun t => (t.statusWord, t.outlen, t.frate)) = some (0x07, 0, 1) ∧
    (after (execTxn (.regWrite 0x14 0xFFFFFFFF) rawWins)).map (·.statusWord) = some 0x07 ∧
    (after (execTxn (.pixWrite 0 false) rawWins)).map (fun t => (t.pix, t.statusWord)) =
      some ([(0, false)], 0) := by decide

/-- Program 1's reads: V-D13, V-D14 (reserved), STATUS with all four results, TAG; and a byte of OUT. -/
theorem test_host_reads :
    (after (execTxn (.regRead 0x10) rawWins)).map (·.reply) = some (.word 0) ∧
    (after (execTxn (.regRead 0x2C) rawWins)).map (·.reply) = some (.word 0) ∧
    (after (execTxn (.regRead 0x14) { rawWins with out := some [0] })).map (·.reply) = some (.word 0x0F) ∧
    (after (execTxn (.regRead 0x1C) cmpWins)).map (·.reply) = some (.word 1) ∧
    (after (execTxn (.bufRead .cmp 2) rawWins)).map (·.reply) = some (.byte 0xAA) := by decide

/-- V-D16, V-D17: a read of an invalid buffer, or at the length, draws the next free byte and changes nothing else;
what the byte is, nothing says. -/
theorem test_bufRead_draws :
    (after (execTxn (.bufRead .out 0) rawWins)).map (fun t => (t.draws, t.raw)) = some (1, some [0x01]) ∧
    (after (execTxn (.bufRead .raw 1) rawWins)).map (·.draws) = some 1 := by decide

/-- A write keeps PIX in its canonical form: out of order, and over a cell already written. -/
theorem test_pix_canonical :
    (((Memory.write [] 5 true).write 2 false).write 5 false) = [(2, false), (5, false)] := by decide

/-- The script notation: `ROW 1: #.` of a 2-wide image, and `ENCBM` (R81, R82). -/
theorem test_script :
    Script.row 2 1 [false, true] = [.pixWrite 2 false, .pixWrite 3 true] ∧
    Script.encbm = [.regWrite 0x10 1, .regWrite 0x10 2, .regWrite 0x10 3, .regWrite 0x10 4] ∧
    Script.dump .raw 1 = [.regRead 0x20, .bufRead .raw 0] := by decide

/-- The table rows with fixed bits run as the first instruction after reset. -/
theorem test_withFetchWord :
    (after (step (State.reset.withFetchWord 32 0x06))).map (·.outlen) = some 16 ∧
    (after (step (State.reset.withFetchWord 32 0x01))).map (·.err) = some 0x102 ∧
    (after (step (State.reset.withFetchWord 8 0x00))).map (·.out) = some (some [0x00, 0x00]) ∧
    (after (step (State.reset.withFetchWord 8 0x01))).map (·.out) = some (some [0x01, 0x00, 0x00]) := by decide

/-! ### Witnesses: a state and operands that meet each obligation's hypotheses -/

/-- The cells of a listed pixel space are below a bound that bounds its indices. -/
theorem inRange_of_all {m : Memory} {n : Nat} (h : m.all (fun p => decide (p.1 < n)) = true) :
    ∀ i, (m.read i).isSome = true → i < n := by
  intro i hi
  obtain ⟨b, hb⟩ := Memory.mem_of_read hi
  simpa using List.all_eq_true.1 h _ hb

theorem witness_inv_rawWins : Inv rawWins where
  cmpNeedsRaw := by decide
  tagNeedsCmp := by decide
  rawIsPacked := by
    intro raw h
    cases h
    exact ⟨by decide, by decide, by decide, (State.imageComplete_iff _).1 (by decide), by decide⟩
  cmpIsBlock := by
    intro c h
    cases h
    exact ⟨[0x01], by decide, by decide, by decide⟩
  tagIsChoice := by
    intro t h
    cases h
    decide
  faultClears := by decide
  rawlenCounts := by unfold counts; decide
  cmplenCounts := by unfold counts; decide
  outlenCounts := by unfold counts; decide
  errNamesFault := rfl
  pixCanonical := by decide
  pixInRange := inRange_of_all (by decide)

theorem witness_inv_cmpWins : Inv cmpWins where
  cmpNeedsRaw := by decide
  tagNeedsCmp := by decide
  rawIsPacked := by
    intro raw h
    cases h
    exact ⟨by decide, by decide, by decide, (State.imageComplete_iff _).1 (by decide), by decide⟩
  cmpIsBlock := by
    intro c h
    cases h
    exact ⟨[0xFF, 0xFF, 0xFF, 0xFF], by decide, by decide, by decide⟩
  tagIsChoice := by
    intro t h
    cases h
    decide
  faultClears := by decide
  rawlenCounts := by unfold counts; decide
  cmplenCounts := by unfold counts; decide
  outlenCounts := by unfold counts; decide
  errNamesFault := rfl
  pixCanonical := by decide
  pixInRange := inRange_of_all (by decide)

/-- A host whose next transaction is `x`. -/
def issues (x : Txn) (s : State) : State := { s with host := [x] }

/-- One word for each clause at the ends of its range (R73). -/
theorem witness_IllegalCommandWordTakesECmd :
    (∀ w : Word, (issues (.regWrite 0x10 w) rawWins).host = .regWrite 0x10 w :: [] ∧
      (issues (.regWrite 0x10 w) rawWins).fault = false) ∧
    (0x00000100 : Word).extractLsb' 8 24 ≠ 0 ∧ (0xFFFFFFFF : Word).extractLsb' 8 24 ≠ 0 ∧
    0x07 ≤ ((0x00000007 : Word).extractLsb' 0 8).toNat ∧ ((0x00000007 : Word).extractLsb' 0 8).toNat ≤ 0x0E ∧
    0x07 ≤ ((0x0000000E : Word).extractLsb' 0 8).toNat ∧ ((0x0000000E : Word).extractLsb' 0 8).toNat ≤ 0x0E ∧
    0x10 ≤ ((0x00000010 : Word).extractLsb' 0 8).toNat ∧ 0x10 ≤ ((0x000000FF : Word).extractLsb' 0 8).toNat :=
  ⟨fun _ => ⟨rfl, rfl⟩, by decide⟩

theorem witness_DecodeOfEncodeGivesInstructionBack :
    ∀ i ∈ [Instr.nop, .pack, .compress, .select, .framebm, .framebmx, .framemeta, .reset, .cblk [0x55],
           .bmRaw [0x01], .bmCmp [], .bmx 1 1 (.raw [0x01]), .bmx 10 20 (.cmp [0x28, 0x00]), .metaRec 16 16 24 3],
      i.wellFormed = true := by decide

theorem witness_EncodeOfDecodeGivesBitsBack :
    decode (.command 0x0000000F) = .ok .reset ∧ decode (.record .bm [0x01, 0x00, 0x00]) = .ok (.bmCmp []) := by
  decide

theorem witness_RecordBytesFollowTheLayouts :
    (List.nil (α := Byte)).length ≤ 65535 ∧ (List.replicate 65535 (0 : Byte)).length ≤ 65535 := by
  refine ⟨by decide, ?_⟩
  rw [List.length_replicate]

theorem witness_StepRunsDecodedCommand :
    (issues (.regWrite 0x10 0x00000001) (image 1 1 [false] [])).host = .regWrite 0x10 0x00000001 :: [] ∧
    decodeCommand 0x00000001 = .ok .pack := by decide

theorem witness_StepRunsStagedInstruction :
    (Instr.bmRaw [0x00]).wellFormed = true ∧ (Instr.cblk [0x55]).wellFormed = true := by decide

theorem witness_StepWithoutTransactionWaits : rawWins.host = [] := rfl

theorem witness_ResetCommandAndHardwareResetRestoreEverything :
    (issues .hardReset faulted).host = .hardReset :: [] := rfl

/-- One state for each clause, the first two at the boundary of the dimensions, the third one byte over a capacity of
4 bytes (V-P15), the fourth with the last cell missing (V-P14). -/
theorem witness_PackRaisesItsFaultsInOrder :
    ((image 0 1 [] []).fault = false ∧ (image 0 1 [] []).width = 0#32) ∧
    ((image 1 0 [] []).fault = false ∧ (image 1 0 [] []).height = 0#32) ∧
    (let s : State := { image 40 1 [] [] with params := ⟨some ⟨4, by decide⟩, []⟩ }
     s.fault = false ∧ s.width ≠ 0#32 ∧ s.height ≠ 0#32 ∧
      s.rawLimit < (s.width.toNat + 7) / 8 * s.height.toNat) ∧
    (let s := image 8 1 (flat 7 true) []
     s.fault = false ∧ s.width ≠ 0#32 ∧ s.height ≠ 0#32 ∧
      (s.width.toNat + 7) / 8 * s.height.toNat ≤ s.rawLimit ∧
      7 < s.width.toNat * s.height.toNat ∧ s.pix.read 7 = none) := by decide

/-- The hypotheses PACK completes under, met at a capacity that N just reaches (V-P16). -/
theorem witness_PackWritesTheInvertedPackedImage :
    let s : State := { image 32 1 (flat 32 false) [] with params := ⟨some ⟨4, by decide⟩, []⟩ }
    s.fault = false ∧ s.width ≠ 0#32 ∧ s.height ≠ 0#32 ∧
      (s.width.toNat + 7) / 8 * s.height.toNat ≤ s.rawLimit ∧
      ∀ i, i < s.width.toNat * s.height.toNat → s.pix.read i ≠ none := by decide

theorem witness_AllWhiteImagePacksToZeroBytes :
    let s := image 9 1 (flat 9 true) []
    s.fault = false ∧ s.width ≠ 0#32 ∧ s.height ≠ 0#32 ∧
      (s.width.toNat + 7) / 8 * s.height.toNat ≤ s.rawLimit ∧
      ∀ i, i < s.width.toNat * s.height.toNat → s.pix.read i = some true := by decide

theorem witness_AllBlackImagePacksToOnePixelBits :
    let s := image 10 2 (flat 20 false) []
    s.fault = false ∧ s.width ≠ 0#32 ∧ s.height ≠ 0#32 ∧
      (s.width.toNat + 7) / 8 * s.height.toNat ≤ s.rawLimit ∧
      ∀ i, i < s.width.toNat * s.height.toNat → s.pix.read i = some false := by decide

/-- Two states that differ in a cell outside the image (V-P20). -/
theorem witness_PackDependsOnlyOnTheImage :
    let s := image 8 1 (flat 8 true) []
    let s' := image 8 1 (flat 9 true) []
    s.fault = false ∧ s'.fault = false ∧ s.params = s'.params ∧ s.width = s'.width ∧ s.height = s'.height ∧
      s.pix ≠ s'.pix ∧ ∀ i, i < s.width.toNat * s.height.toNat → s.pix.read i = s'.pix.read i := by decide

/-- A block whose RAW is the byte `b` and whose `compress` takes it to `data`. -/
def compressesTo (data : List Byte) : State := { base [([0x55], data)] with raw := some [0x55], rawlen := 1 }

theorem compressesTo_compress (data : List Byte) : (compressesTo data).compress [0x55] = data := by
  simp [State.compress, compressesTo, base]

/-- One state for each clause, at the boundaries V-C4 and V-C5. -/
theorem witness_CompressWritesTheCompressedBlock :
    ((base []).fault = false ∧ (base []).raw = none) ∧
    (let s := compressesTo (List.replicate 65536 0)
     s.fault = false ∧ s.raw = some [0x55] ∧ 65535 < (s.compress [0x55]).length) ∧
    (let s := compressesTo (List.replicate 65535 0)
     s.fault = false ∧ s.raw = some [0x55] ∧ (s.compress [0x55]).length ≤ 65535) := by
  refine ⟨by decide, ⟨rfl, rfl, ?_⟩, ⟨rfl, rfl, ?_⟩⟩
  · rw [compressesTo_compress, List.length_replicate]
    decide
  · rw [compressesTo_compress, List.length_replicate]

theorem witness_SelectComparesTheSizes :
    ((compressesTo []).fault = false ∧ (compressesTo []).cmp = none) ∧
    (rawWins.fault = false ∧ rawWins.raw ≠ none ∧ rawWins.cmp ≠ none) := by decide

/-- V-S1. -/
theorem witness_SelectTieGivesTagZero :
    let s : State := { rawWins with rawlen := 9, cmplen := 8 }
    s.fault = false ∧ s.raw ≠ none ∧ s.cmp ≠ none ∧ s.cmplen.toNat + 2 = s.rawlen.toNat + 1 := by decide

/-- Both tags. -/
theorem witness_ChosenContainerIsAtMostOneByteLonger :
    (Inv rawWins ∧ rawWins.fault = false ∧ rawWins.raw = some [0x01] ∧
      rawWins.cmp = some [0x01, 0x00, 0xAA]) ∧
    (Inv cmpWins ∧ cmpWins.fault = false ∧ cmpWins.raw = some [0xFF, 0xFF, 0xFF, 0xFF] ∧
      cmpWins.cmp = some [0x00, 0x00]) :=
  ⟨⟨witness_inv_rawWins, by decide⟩, ⟨witness_inv_cmpWins, by decide⟩⟩

/-- The 1000-byte zero buffer with the 8 bytes of V-C2, and a buffer its stand-in does not shrink. -/
theorem witness_SelectorIsCorrectUnderTheNamedHypotheses :
    (∃ s : State, s.fault = false ∧ s.raw = some (List.replicate 1000 0) ∧
      s.rawlen.toNat = (List.replicate 1000 (0 : Byte)).length ∧ pZeros1000 s.compress) ∧
    (let s := compressesTo [0x55]
     s.fault = false ∧ s.raw = some [0x55] ∧ s.rawlen.toNat = [0x55#8].length ∧
      pRandom s.compress [0x55] ∧ (s.compress [0x55]).length ≤ 65535) := by
  refine ⟨⟨{ base [(List.replicate 1000 0, [0xFF, 0, 0xFF, 0, 0xFF, 0, 0xEB, 0])] with
    raw := some (List.replicate 1000 0), rawlen := 1000 }, rfl, rfl, ?_, ?_⟩, rfl, rfl, rfl, ?_, ?_⟩
  · rw [List.length_replicate]
    rfl
  · unfold pZeros1000 State.compress
    generalize List.replicate 1000 (0 : Byte) = z
    simp [base]
  · unfold pRandom
    rw [compressesTo_compress]
    decide
  · rw [compressesTo_compress]
    decide

/-- One state for each clause, for FRAMEBM and FRAMEBMX alike. -/
theorem witness_FramebmWritesTheBmContainer :
    ((base []).fault = false ∧ (base []).tag = none) ∧
    (rawWins.fault = false ∧ rawWins.tag = some false ∧ rawWins.raw = some [0x01]) ∧
    (cmpWins.fault = false ∧ cmpWins.tag = some true ∧ cmpWins.cmp = some [0x00, 0x00]) := by decide

theorem witness_FramebmxWritesTheBmxContainer :
    ((base []).fault = false ∧ (base []).tag = none) ∧
    (rawWins.fault = false ∧ rawWins.tag = some false ∧ rawWins.raw = some [0x01]) ∧
    (cmpWins.fault = false ∧ cmpWins.tag = some true ∧ cmpWins.cmp = some [0x00, 0x00]) := by decide

theorem witness_FramemetaWritesTheMetadataRecord : (base []).fault = false := rfl

theorem witness_FramedContainersReadBack :
    Inv cmpWins ∧ cmpWins.fault = false ∧ cmpWins.tag ≠ none := ⟨witness_inv_cmpWins, by decide⟩

theorem witness_FramedTagByteIsZeroOrOne :
    rawWins.fault = false ∧ (after (exec .framebm rawWins)).map (·.fault) = some false ∧
    (after (exec .framebmx rawWins)).map (·.fault) = some false := by decide

/-- Both branches; the decompressor undoes `compress` on the one RAW. -/
theorem witness_FramedPayloadGivesRawBack :
    (Inv rawWins ∧ rawWins.fault = false ∧ rawWins.tag ≠ none ∧ rawWins.raw = some [0x01] ∧
      (fun _ => [0x01]) (rawWins.compress [0x01]) = [0x01#8]) ∧
    (Inv cmpWins ∧ cmpWins.fault = false ∧ cmpWins.tag ≠ none ∧ cmpWins.raw = some [0xFF, 0xFF, 0xFF, 0xFF] ∧
      (fun _ => [0xFF, 0xFF, 0xFF, 0xFF]) (cmpWins.compress [0xFF, 0xFF, 0xFF, 0xFF]) =
        [0xFF#8, 0xFF, 0xFF, 0xFF]) :=
  ⟨⟨witness_inv_rawWins, by decide, by decide, rfl, rfl⟩, ⟨witness_inv_cmpWins, by decide, by decide, rfl, rfl⟩⟩

/-- Operands for each clause, the data and the smallest raw payload at the boundaries of their ranges. -/
theorem witness_RecordsWriteTheirBuffers :
    (base []).fault = false ∧ (List.replicate 65535 (0 : Byte)).length ≤ 65535 ∧
    (1 ≤ [0x01#8].length ∧ [0x01#8].length ≤ 2 ^ 32 - 10) ∧
    ([0x01#8].length = ((1 : Word).toNat + 7) / 8 * (1 : Word).toNat) ∧
    (1 ≤ (1 : Word).toNat) := by
  refine ⟨rfl, Nat.le_of_eq List.length_replicate, by decide, by decide, by decide⟩

theorem witness_IllFormedRecordIsRefused :
    65535 < (List.replicate 65536 (0 : Byte)).length ∧ (List.nil (α := Byte)).length = 0 ∧
    [0x01#8].length ≠ ((9 : Word).toNat + 7) / 8 * (1 : Word).toNat ∧ (0 : Word) = 0#32 := by
  refine ⟨?_, rfl, by decide, rfl⟩
  rw [List.length_replicate]
  decide

theorem witness_CommandsWriteTheRecordsTheirRulesName :
    (Inv rawWins ∧ rawWins.raw = some [0x01] ∧ (rawWins.compress [0x01]).length ≤ 65535 ∧
      rawWins.tag = some false) ∧
    (Inv cmpWins ∧ cmpWins.raw = some [0xFF, 0xFF, 0xFF, 0xFF] ∧ cmpWins.tag = some true) :=
  ⟨⟨witness_inv_rawWins, by decide⟩, ⟨witness_inv_cmpWins, by decide⟩⟩

theorem witness_CommandsKeepDataRegistersAndPixels :
    Instr.framebm ≠ .reset ∧ (after (exec .framebm rawWins)).isSome = true ∧
    Instr.select ≠ .reset ∧ (after (exec .select (base []))).map (·.fault) = some true := by decide

theorem witness_OperationsChangeOnlyTheirResults :
    Instr.pack ≠ .reset ∧ (after (exec .pack rawWins)).map (·.fault) = some rawWins.fault ∧
    Instr.framemeta ≠ .reset ∧ (after (exec .framemeta rawWins)).map (·.fault) = some rawWins.fault := by decide

theorem witness_RegisterReadReturnsTheRegister :
    0x2C % 4 = 0 ∧ (issues (.regRead 0x2C) rawWins).host = .regRead 0x2C :: [] := by decide

/-- One read for each clause: the last byte, an invalid buffer, and the index at the length (V-D16, V-D17). -/
theorem witness_BufferReadFollowsTheBuffer :
    ((issues (.bufRead .cmp 2) rawWins).cmp = some [0x01, 0x00, 0xAA] ∧
      [0x01#8, 0x00, 0xAA][2]? = some 0xAA) ∧
    (issues (.bufRead .out 0) rawWins).out = none ∧
    ((issues (.bufRead .raw 1) rawWins).raw = some [0x01] ∧ [0x01#8].length ≤ 1) := by decide

/-- The five clauses, the last at the first and at a reserved offset. -/
theorem witness_RegisterWriteStoresAndClears :
    ∀ o ∈ [0x00, 0x04, 0x08, 0x0C, 0x14, 0x2C],
      (issues (.regWrite o 5) rawWins).fault = false ∧ (issues (.regWrite o 5) rawWins).host = [.regWrite o 5] ∧
      (o = 0x00 ∨ o = 0x04 ∨ o = 0x08 ∨ o = 0x0C ∨ (o % 4 = 0 ∧ 0x14 ≤ o)) := by decide

/-- The last cell of the space, in a block that is not faulted and in one that is. -/
theorem witness_PixelWriteStoresAndClears :
    ∀ s ∈ [rawWins, faulted], 8 * (2 ^ 32 - 10) - 1 < s.pixCells := by decide

theorem witness_AccessOffTheInterfaceStops :
    0x02 % 4 ≠ 0 ∧ (issues (.regRead 0x02) rawWins).host = .regRead 0x02 :: [] ∧
    rawWins.pixCells ≤ 8 * (2 ^ 32 - 10) := by decide

theorem witness_WritesAreIdempotent :
    (after (execTxn (.regWrite 0x10 0x00000001) (image 1 1 [false] []))).map (·.raw) = some (some [0x01]) ∧
    (after (execTxn (.pixWrite 3 true) rawWins)).isSome = true := by decide

theorem witness_FaultedBlockIgnoresInstructions :
    faulted.fault = true ∧ Instr.pack.wellFormed = true ∧ Instr.pack ≠ .reset := by decide

/-- V-D7 and V-D10. -/
theorem witness_FaultedBlockChangesOnlyByReset :
    ∀ t ∈ [Txn.regWrite 0x00 5, .regWrite 0x10 0x0000010F, .pixWrite 0 true, .bufRead .out 0, .regRead 0x18],
      faulted.fault = true ∧ (issues t faulted).host = t :: [] ∧ t.wellFormed faulted.pixCells = true ∧
      t ≠ .hardReset ∧ t ≠ .regWrite 0x10 0x0000000F := by decide

theorem witness_EveryStepKeepsTheInvariants :
    Inv rawWins ∧ (after (step rawWins)).isSome = true := ⟨witness_inv_rawWins, by decide⟩

theorem witness_NoStepChangesTheParameters : (after (step (issues .hardReset faulted))).isSome = true := by decide

/-- The three cases: a fault taken (by a command, and by the illegal word of R178's example), a fault cleared,
neither. -/
theorem witness_ErrIsWrittenByAFaultAndClearedByReset :
    (after (step (issues (.regWrite 0x10 0x00000107) (base [])))).map (·.err) = some 0x00000706 ∧
    (after (step (issues (.regWrite 0x10 0x00000003) (base [])))).map (·.err) = some 0x00000304 ∧
    (after (step (issues (.regWrite 0x10 0x0000000F) faulted))).map (·.err) = some 0 ∧
    (after (step (issues (.regWrite 0x00 1) (base [])))).map (·.err) = some 0 := by decide

/-- A result appears, for each of the four. -/
theorem witness_ResultsAppearOnlyByTheirCommands :
    (after (step (issues (.regWrite 0x10 0x00000001) (image 1 1 [false] [])))).map (·.rawv) = some true ∧
    (after (step (issues (.regWrite 0x10 0x00000002) (compressesTo [])))).map (·.cmpv) = some true ∧
    (after (step (issues (.regWrite 0x10 0x00000003) { rawWins with tag := none }))).map (·.tagv) = some true ∧
    (after (step (issues (.regWrite 0x10 0x00000006) (base [])))).map (·.outv) = some true := by decide

/-- Both branches: the 1 by 1 image whose raw form wins and the 32 by 1 image whose compressed form wins. -/
theorem witness_PipelineOrderYieldsTheContainer :
    (let s := image 1 1 [false] [([0x01], [0xAA])]
     s.fault = false ∧ s.width ≠ 0#32 ∧ s.height ≠ 0#32 ∧ s.rawBytes ≤ s.rawLimit ∧
      (∀ i, i < s.pixelCount → s.pix.read i ≠ none) ∧ (s.compress s.packed).length ≤ 65535) ∧
    (let s := image 32 1 (flat 32 false) [([0xFF, 0xFF, 0xFF, 0xFF], [])]
     s.fault = false ∧ s.width ≠ 0#32 ∧ s.height ≠ 0#32 ∧ s.rawBytes ≤ s.rawLimit ∧
      (∀ i, i < s.pixelCount → s.pix.read i ≠ none) ∧ (s.compress s.packed).length ≤ 65535) := by decide

end Sys2Proof.Tests
end

/-! # Family 00_scope: records outside their layout's range (R7, R74 to R76, R80)

The length rules of the records read as arithmetic, the meaning of each record row through `emitRecord`, and O30. -/

namespace Sys2Proof

theorem Bm.wellFormed_raw_iff (raw : List Byte) :
    (Bm.raw raw).wellFormed = true ↔ 1 ≤ raw.length ∧ raw.length ≤ 2 ^ 32 - 10 := by
  rw [Bm.wellFormed, Bool.and_eq_true, decide_eq_true_iff, decide_eq_true_iff, Config.rawCeiling]

theorem Bm.wellFormed_cmp_iff (data : List Byte) :
    (Bm.cmp data).wellFormed = true ↔ data.length ≤ 65535 :=
  decide_eq_true_iff

theorem Bm.fits_raw_iff (w h : Word) (raw : List Byte) :
    (Bm.raw raw).fits w h = true ↔ raw.length = (w.toNat + 7) / 8 * h.toNat :=
  decide_eq_true_iff

theorem Bm.fits_cmp_iff (w h : Word) (data : List Byte) :
    (Bm.cmp data).fits w h = true ↔ 1 ≤ w.toNat ∧ 1 ≤ h.toNat := by
  simp [Bm.fits]

theorem Instr.wellFormed_bmx_iff (w h : Word) (bm : Bm) :
    (Instr.bmx w h bm).wellFormed = true ↔ bm.wellFormed = true ∧ bm.fits w h = true := by
  simp [Instr.wellFormed]

end Sys2Proof

namespace Sys2Proof.Machine

theorem exec_cblk (data : List Byte) (s : State) :
    exec (.cblk data) s = emitRecord (.cblk data) "CBLK" State.setCmp s := rfl

theorem exec_bmRaw (raw : List Byte) (s : State) :
    exec (.bmRaw raw) s = emitRecord (.bmRaw raw) "BM.RAW" State.setOut s := rfl

theorem exec_bmCmp (data : List Byte) (s : State) :
    exec (.bmCmp data) s = emitRecord (.bmCmp data) "BM.CMP" State.setOut s := rfl

theorem exec_bmx (w h : Word) (bm : Bm) (s : State) :
    exec (.bmx w h bm) s = emitRecord (.bmx w h bm) "BMX" State.setOut s := rfl

/-- A BMX record is refused for its container's payload (R34, R74). -/
theorem exec_bmx_refused_of_payload {bm : Bm} (hb : ¬ bm.wellFormed = true) (w h : Word) (s : State) :
    exec (.bmx w h bm) s = .refused (.illFormedRecord "BMX") := by
  rw [exec_bmx]
  exact emitRecord_illFormed _ _ s (Bool.eq_false_iff.2 fun hwf => hb ((Instr.wellFormed_bmx_iff w h bm).1 hwf).1)

/-- A BMX record is refused for a header its payload does not fit (R38, R80, R144). -/
theorem exec_bmx_refused_of_header {w h : Word} {bm : Bm} (hb : ¬ bm.fits w h = true) (s : State) :
    exec (.bmx w h bm) s = .refused (.illFormedRecord "BMX") := by
  rw [exec_bmx]
  exact emitRecord_illFormed _ _ s (Bool.eq_false_iff.2 fun hwf => hb ((Instr.wellFormed_bmx_iff w h bm).1 hwf).2)

/-- R7, R74: a compressed payload longer than a u16 counts is refused by the three records that hold one. -/
theorem longCompressedPayload_refused {data : List Byte} (hlen : 65535 < data.length) (s : State) :
    exec (.cblk data) s = .refused (.illFormedRecord "CBLK") ∧
    exec (.bmCmp data) s = .refused (.illFormedRecord "BM.CMP") ∧
    ∀ w h : Word, exec (.bmx w h (.cmp data)) s = .refused (.illFormedRecord "BMX") := by
  have hwf : ¬ (Bm.cmp data).wellFormed = true := by rw [Bm.wellFormed_cmp_iff]; omega
  refine ⟨?_, ?_, fun w h => exec_bmx_refused_of_payload hwf w h s⟩
  -- CBLK and BM.CMP have the length rule of `Bm.cmp`, by definition.
  · rw [exec_cblk]
    exact emitRecord_illFormed _ _ s (Bool.eq_false_iff.2 hwf)
  · rw [exec_bmCmp]
    exact emitRecord_illFormed _ _ s (Bool.eq_false_iff.2 hwf)

/-- R34: an empty raw payload, or one above the capacity ceiling, is refused by the two records that hold one. -/
theorem rawPayloadOutOfRange_refused {raw : List Byte} (hlen : raw.length = 0 ∨ 2 ^ 32 - 10 < raw.length)
    (s : State) :
    exec (.bmRaw raw) s = .refused (.illFormedRecord "BM.RAW") ∧
    ∀ w h : Word, exec (.bmx w h (.raw raw)) s = .refused (.illFormedRecord "BMX") := by
  have hwf : ¬ (Bm.raw raw).wellFormed = true := by rw [Bm.wellFormed_raw_iff]; omega
  refine ⟨?_, fun w h => exec_bmx_refused_of_payload hwf w h s⟩
  rw [exec_bmRaw]
  exact emitRecord_illFormed _ _ s (Bool.eq_false_iff.2 hwf)

/-- Settles O30: each length outside the layout makes the record's well-formedness test fail, and `emitRecord`
refuses by name what fails it. -/
theorem illFormedRecordIsRefused : Obligations.IllFormedRecordIsRefused := by
  unfold Obligations.IllFormedRecordIsRefused
  intro s
  refine ⟨fun data hlen => longCompressedPayload_refused hlen s,
    fun raw hlen => rawPayloadOutOfRange_refused hlen s, fun w h raw hne => ?_, fun w h data hzero => ?_⟩
  · exact exec_bmx_refused_of_header (mt (Bm.fits_raw_iff w h raw).1 hne) s
  · refine exec_bmx_refused_of_header (mt (Bm.fits_cmp_iff w h data).1 ?_) s
    rcases hzero with rfl | rfl <;> simp

end Sys2Proof.Machine

/-! # Family 10_state: reset, the invariants, ERR and the four results (R26 to R39)

What each named update of the state does to the invariants, each effect of a step read off `BlockEffect`, and O9, O42,
O43, O45, O46. -/

namespace Sys2Proof.Safety

open Sys2Proof.Machine

/-! ### Sizes and length registers (R28, R29, R31) -/

theorem counts_zero_none : counts 0 none := rfl

/-- A length of at most 32 bits is held exactly. -/
theorem counts_ofNat_some {bytes : List Byte} (h : bytes.length < 2 ^ 32) :
    counts (BitVec.ofNat 32 bytes.length) (some bytes) := by
  rw [counts, BitVec.toNat_ofNat, Nat.mod_eq_of_lt h, Option.getD_some]

theorem one_le_toNat_of_ne_zero {w : Word} (h : w ≠ 0#32) : 1 ≤ w.toNat :=
  Nat.pos_of_ne_zero fun h0 => h (BitVec.eq_of_toNat_eq h0)

/-- RAW is within the capacity ceiling (R5, R34). -/
theorem Inv.length_raw_le {s : State} (h : Inv s) {raw : List Byte} (hr : s.raw = some raw) :
    raw.length ≤ 2 ^ 32 - 10 := by
  obtain ⟨-, -, hfits, -, rfl⟩ := h.rawIsPacked raw hr
  rw [State.length_packed]
  exact hfits.trans s.rawLimit_le

/-- A Compressed Block is its u16 length field and at most 65535 bytes (R74). -/
theorem length_block_le {data : List Byte} (h : data.length ≤ Config.lenMax) :
    (u16le data.length ++ data).length ≤ 65537 := by
  rw [List.length_append, length_u16le]
  exact Nat.add_le_add_left h 2

theorem Inv.length_cmp_le {s : State} (h : Inv s) {cmp : List Byte} (hc : s.cmp = some cmp) :
    cmp.length ≤ 65537 := by
  obtain ⟨raw, -, hlen, rfl⟩ := h.cmpIsBlock cmp hc
  exact length_block_le hlen

/-- The tagged payload leaves room for the eight bytes of a BMX header in 32 bits (R5, R149). -/
theorem Inv.length_bm_le {s : State} (h : Inv s) {bm : List Byte} (hb : s.bm = some bm) :
    bm.length ≤ 2 ^ 32 - 9 := by
  rcases State.bm_eq_some.1 hb with ⟨raw, -, hr, rfl⟩ | ⟨cmp, -, hc, rfl⟩
  · have := h.length_raw_le hr
    rw [List.length_cons]
    omega
  · have := h.length_cmp_le hc
    rw [List.length_cons]
    omega

/-! ### What each update does to the invariants -/

/-- A block without results meets the invariants as soon as ERR agrees with FAULT and PIX is in order. -/
theorem inv_dropRaw {s : State} (herr : if s.fault = true then ∃ f op, s.err = errWord f op else s.err = 0)
    (hwf : s.pix.wf) (hrange : ∀ i, (s.pix.read i).isSome = true → i < s.pixCells) : Inv s.dropRaw where
  cmpNeedsRaw := by simp [State.cmpv]
  tagNeedsCmp := by simp [State.tagv]
  rawIsPacked := by simp
  cmpIsBlock := by simp
  tagIsChoice := by simp
  faultClears := by simp
  rawlenCounts := counts_zero_none
  cmplenCounts := counts_zero_none
  outlenCounts := counts_zero_none
  errNamesFault := herr
  pixCanonical := hwf
  pixInRange := hrange

/-- The invariants speak neither of FRATE and FCOUNT nor of the host's list, its reply and the free bytes. -/
theorem Inv.withUnread {s : State} (h : Inv s) (frate fcount : Word) (host : List Txn) (reply : Reply) (draws : Nat) :
    Inv { s with frate := frate, fcount := fcount, host := host, reply := reply, draws := draws } :=
  { h with }

/-- OUT may become anything its length register counts, in a block that is not faulted or where it is cleared. -/
theorem Inv.withOut {s : State} (h : Inv s) {out : Option (List Byte)} {len : Word} (hcounts : counts len out)
    (hfault : s.fault = true → out = none) : Inv { s with out := out, outlen := len } :=
  { h with
    faultClears := fun hf =>
      have ⟨hraw, hcmp, htag, _⟩ := h.faultClears hf
      ⟨hraw, hcmp, htag, hfault hf⟩
    outlenCounts := hcounts }

theorem Inv.dropOut {s : State} (h : Inv s) : Inv s.dropOut := h.withOut counts_zero_none fun _ => rfl

theorem Inv.setOut {s : State} (h : Inv s) (hf : s.fault = false) {bytes : List Byte} (hlen : bytes.length < 2 ^ 32) :
    Inv (s.setOut bytes) :=
  h.withOut (counts_ofNat_some hlen) fun ht => absurd ht (by simp [hf])

/-- SELECT's tag is the choice that the invariant asks for (R131, R38.4). -/
theorem Inv.setTag {s : State} (h : Inv s) (hf : s.fault = false) (hc : s.cmp.isSome = true) :
    Inv (s.setTag (decide (s.sizeC < s.sizeR))) :=
  { h.dropOut with
    tagNeedsCmp := fun _ => hc
    tagIsChoice := by
      intro t ht
      cases ht
      exact decide_eq_true_iff
    faultClears := by simp [hf] }

/-- COMPRESS's block is the block of the current RAW (R122, R38.3). -/
theorem Inv.setCmp {s : State} (h : Inv s) (hf : s.fault = false) {raw : List Byte} (hr : s.raw = some raw)
    (hlen : (s.compress raw).length ≤ Config.lenMax) :
    Inv (s.setCmp (u16le (s.compress raw).length ++ s.compress raw)) :=
  { h.dropOut with
    cmpNeedsRaw := fun _ => by simp [State.rawv, hr]
    tagNeedsCmp := by simp [State.tagv]
    cmpIsBlock := by
      intro cmp hcmp
      cases hcmp
      exact ⟨raw, hr, hlen, rfl⟩
    tagIsChoice := by simp
    faultClears := by simp [hf]
    cmplenCounts := counts_ofNat_some ((length_block_le hlen).trans_lt (by decide)) }

/-- PACK's bytes are the packing of the current image (R104, R38.2). -/
theorem Inv.setRaw {s : State} (h : Inv s) (hf : s.fault = false) (hw : s.width ≠ 0#32) (hh : s.height ≠ 0#32)
    (hfits : s.rawBytes ≤ s.rawLimit) (hcomplete : s.imageComplete = true) : Inv (s.setRaw s.packed) :=
  { h.dropOut with
    cmpNeedsRaw := by simp [State.cmpv]
    tagNeedsCmp := by simp [State.tagv]
    rawIsPacked := by
      intro raw hraw
      cases hraw
      exact ⟨one_le_toNat_of_ne_zero hw, one_le_toNat_of_ne_zero hh, hfits,
        (State.imageComplete_iff s).1 hcomplete, rfl⟩
    cmpIsBlock := by simp
    tagIsChoice := by simp
    faultClears := by simp [hf]
    rawlenCounts := by
      have hceiling : s.rawBytes ≤ 2 ^ 32 - 10 := hfits.trans s.rawLimit_le
      exact counts_ofNat_some (by rw [State.length_packed]; omega)
    cmplenCounts := counts_zero_none }

/-- Taking a fault leaves no result, and ERR names the fault (R172). -/
theorem Inv.raise {s : State} (h : Inv s) (f : FaultCode) (op : Byte) : Inv (s.raise f op) :=
  inv_dropRaw (s := { s with err := errWord f op, fault := true }) ⟨f, op, rfl⟩ h.pixCanonical h.pixInRange

/-- A reset empties PIX and clears ERR and FAULT with the results (R39). -/
theorem inv_hwReset (s : State) : Inv s.hwReset :=
  inv_dropRaw (s := s.hwReset) rfl Memory.wf_nil (by simp)

/-- A register write clears what depends on the register (R37). -/
theorem Inv.writeReg {s : State} (h : Inv s) (r : Option Reg) (v : Word) : Inv (writeReg r v s) := by
  rcases writeReg_cases r v s with ht | ht | ht | ht | ht <;> rw [ht]
  · exact inv_dropRaw (s := { s with width := v }) h.errNamesFault h.pixCanonical h.pixInRange
  · exact inv_dropRaw (s := { s with height := v }) h.errNamesFault h.pixCanonical h.pixInRange
  · exact h.dropOut.withUnread v s.fcount s.host s.reply s.draws
  · exact h.dropOut.withUnread s.frate v s.host s.reply s.draws
  · exact h

/-- A pixel write within the pixel space keeps PIX in order and clears every result (R164). -/
theorem Inv.pixWrite {s : State} (h : Inv s) {i : Nat} (hi : i < s.pixCells) (b : Bool) :
    Inv { s.dropRaw with pix := s.pix.write i b } := by
  refine inv_dropRaw (s := { s with pix := s.pix.write i b }) h.errNamesFault (Memory.write_wf h.pixCanonical i b) ?_
  intro j hj
  rw [Memory.read_write] at hj
  split at hj
  · next hji => exact hji ▸ hi
  · exact h.pixInRange j hj

/-- Every effect a transaction can have keeps the invariants. -/
theorem Inv.of_blockEffect {x : Option Txn} {s t : State} (h : Inv s) (he : BlockEffect x s t) : Inv t := by
  rcases he with rfl | ⟨rfl, -⟩ | ⟨hf, ⟨f, w, -, rfl⟩ | ⟨-, hw, hh, hfits, hcomplete, rfl⟩ | ⟨-, raw, hr, hlen, rfl⟩ |
    ⟨-, -, hc, rfl⟩ | ⟨-, bm, hb, rfl⟩ | ⟨-, bm, hb, rfl⟩ | ⟨-, rfl⟩ | ⟨r, v, rfl⟩ | ⟨i, b, hi, rfl⟩⟩
  · exact h
  · exact inv_hwReset s
  · exact h.raise f (opcField w)
  · exact h.setRaw hf hw hh hfits hcomplete
  · exact h.setCmp hf hr hlen
  · exact h.setTag hf hc
  · have := h.length_bm_le hb
    exact h.setOut hf (by omega)
  · have := h.length_bm_le hb
    refine h.setOut hf ?_
    simp only [List.length_append, length_u32le]
    omega
  · exact h.setOut hf (by simp)
  · exact h.writeReg r v
  · exact h.pixWrite hi b

/-! ### Reset and the invariants (R38, R39) -/

/-- Settles O43: the invariants do not speak of what surrounds the transaction, and each effect of `step_cases` keeps
them. -/
theorem everyStepKeepsTheInvariants : Obligations.EveryStepKeepsTheInvariants := by
  unfold Obligations.EveryStepKeepsTheInvariants
  intro s t h hstep
  obtain ⟨rest, r, d, heffect⟩ := step_cases hstep
  exact (h.withUnread s.frate s.fcount rest r d).of_blockEffect heffect

/-- Settles O42: the reset state is what a hardware reset makes of it. -/
theorem resetMeetsTheInvariants : Obligations.ResetMeetsTheInvariants :=
  inv_hwReset State.reset

/-- Settles O9: each piece of state by its row of R39, the cells of PIX because none is listed. -/
theorem resetStateHoldsResetValues : Obligations.ResetStateHoldsResetValues :=
  ⟨rfl, rfl, rfl, rfl, rfl, rfl, rfl, rfl, rfl, rfl, rfl, rfl, Memory.read_nil, rfl, rfl, rfl⟩

end Sys2Proof.Safety

namespace Sys2Proof.Machine

/-! ### ERR and FAULT (R26, R171, R172) -/

/-- The six codes are 1 to 6 (R171). -/
theorem FaultCode.code_range (f : FaultCode) : 1 ≤ f.code.toNat ∧ f.code.toNat ≤ 6 := by
  cases f <;> decide

theorem writeReg_keeps_err_fault (r : Option Reg) (v : Word) (s : State) :
    (writeReg r v s).err = s.err ∧ (writeReg r v s).fault = s.fault := by
  rcases writeReg_cases r v s with h | h | h | h | h <;> simp [h]

/-- Only taking a fault and a reset touch ERR and FAULT. -/
theorem BlockEffect.err_fault_cases {x : Option Txn} {s t : State} (h : BlockEffect x s t) :
    (t.err = s.err ∧ t.fault = s.fault) ∨
    (s.fault = false ∧ ∃ f w, x = some (.regWrite 0x10 w) ∧ t = s.raise f (opcField w)) ∨
    (t = s.hwReset ∧ (x = some .hardReset ∨ x = some (.regWrite 0x10 0x0F))) := by
  rcases h with rfl | hreset | ⟨hf, hfault | ⟨-, -, -, -, -, rfl⟩ | ⟨-, _, -, -, rfl⟩ | ⟨-, -, -, rfl⟩ |
    ⟨-, _, -, rfl⟩ | ⟨-, _, -, rfl⟩ | ⟨-, rfl⟩ | ⟨r, v, rfl⟩ | ⟨_, _, -, rfl⟩⟩
  · exact .inl ⟨rfl, rfl⟩
  · exact .inr (.inr hreset)
  · exact .inr (.inl ⟨hf, hfault⟩)
  · exact .inl ⟨State.setRaw_err .., State.setRaw_fault ..⟩
  · exact .inl ⟨State.setCmp_err .., State.setCmp_fault ..⟩
  · exact .inl ⟨State.setTag_err .., State.setTag_fault ..⟩
  · exact .inl ⟨State.setOut_err .., State.setOut_fault ..⟩
  · exact .inl ⟨State.setOut_err .., State.setOut_fault ..⟩
  · exact .inl ⟨State.setOut_err .., State.setOut_fault ..⟩
  · exact .inl (writeReg_keeps_err_fault r v s)
  · exact .inl ⟨State.dropRaw_err s, State.dropRaw_fault s⟩

/-- Settles O45: a fault taken writes `errWord`, a reset writes 0, and no other effect touches ERR and FAULT. -/
theorem errIsWrittenByAFaultAndClearedByReset : Obligations.ErrIsWrittenByAFaultAndClearedByReset := by
  unfold Obligations.ErrIsWrittenByAFaultAndClearedByReset
  intro s t hstep
  obtain ⟨rest, r, d, heffect⟩ := step_cases hstep
  rcases heffect.err_fault_cases with hkeep | ⟨hf, f, w, hx, rfl⟩ | ⟨rfl, hx⟩
  · exact .inl hkeep
  · obtain ⟨hpos, hle⟩ := f.code_range
    exact .inr (.inl ⟨hf, rfl, ⟨w, f.code.toNat, hx, hpos, hle, rfl⟩, rfl, rfl, rfl, rfl⟩)
  · exact .inr (.inr ⟨rfl, rfl, hx⟩)

/-! ### The four results (R30) -/

/-- From `s` to `t` no result appears. -/
def NoNewResult (s t : State) : Prop :=
  (s.raw = none → t.raw = none) ∧ (s.cmp = none → t.cmp = none) ∧
  (s.tag = none → t.tag = none) ∧ (s.out = none → t.out = none)

theorem writeReg_noNewResult (r : Option Reg) (v : Word) (s : State) : NoNewResult s (writeReg r v s) := by
  rcases writeReg_cases r v s with h | h | h | h | h <;> simp [NoNewResult, h]

/-- A result appears only by its setter, under the command word of R30. -/
theorem BlockEffect.result_cases {x : Option Txn} {s t : State} (h : BlockEffect x s t) :
    NoNewResult s t ∨
    (x = some (.regWrite 0x10 0x01) ∧ ∃ bytes, t = s.setRaw bytes) ∨
    (x = some (.regWrite 0x10 0x02) ∧ ∃ bytes, t = s.setCmp bytes) ∨
    (x = some (.regWrite 0x10 0x03) ∧ ∃ tag, t = s.setTag tag) ∨
    ((x = some (.regWrite 0x10 0x04) ∨ x = some (.regWrite 0x10 0x05) ∨ x = some (.regWrite 0x10 0x06)) ∧
      ∃ bytes, t = s.setOut bytes) := by
  rcases h with rfl | ⟨rfl, -⟩ | ⟨-, ⟨_, _, -, rfl⟩ | ⟨hx, -, -, -, -, ht⟩ | ⟨hx, _, -, -, ht⟩ | ⟨hx, -, -, ht⟩ |
    ⟨hx, _, -, ht⟩ | ⟨hx, _, -, ht⟩ | ⟨hx, ht⟩ | ⟨r, v, rfl⟩ | ⟨_, _, -, rfl⟩⟩
  · exact .inl ⟨id, id, id, id⟩
  · exact .inl (by simp [NoNewResult])
  · exact .inl (by simp [NoNewResult])
  · exact .inr (.inl ⟨hx, _, ht⟩)
  · exact .inr (.inr (.inl ⟨hx, _, ht⟩))
  · exact .inr (.inr (.inr (.inl ⟨hx, _, ht⟩)))
  · exact .inr (.inr (.inr (.inr ⟨.inl hx, _, ht⟩)))
  · exact .inr (.inr (.inr (.inr ⟨.inr (.inl hx), _, ht⟩)))
  · exact .inr (.inr (.inr (.inr ⟨.inr (.inr hx), _, ht⟩)))
  · exact .inl (writeReg_noNewResult r v s)
  · exact .inl (by simp [NoNewResult])

/-- Settles O46: each setter writes its own result and leaves or clears the other three. -/
theorem resultsAppearOnlyByTheirCommands : Obligations.ResultsAppearOnlyByTheirCommands := by
  unfold Obligations.ResultsAppearOnlyByTheirCommands
  intro s t hstep
  obtain ⟨rest, r, d, heffect⟩ := step_cases hstep
  rcases heffect.result_cases with ⟨hraw, hcmp, htag, hout⟩ | ⟨hx, bytes, rfl⟩ | ⟨hx, bytes, rfl⟩ | ⟨hx, tag, rfl⟩ |
    ⟨hx, bytes, rfl⟩
  · exact ⟨fun h0 => absurd (hraw h0), fun h0 => absurd (hcmp h0), fun h0 => absurd (htag h0),
      fun h0 => absurd (hout h0)⟩
  · exact ⟨fun _ _ => hx, by simp, by simp, by simp⟩
  · exact ⟨fun h0 => absurd h0, fun _ _ => hx, by simp, by simp⟩
  · exact ⟨fun h0 => absurd h0, fun h0 => absurd h0, fun _ _ => hx, by simp⟩
  · exact ⟨fun h0 => absurd h0, fun h0 => absurd h0, fun h0 => absurd h0, fun _ _ => hx⟩

end Sys2Proof.Machine

/-! # Family 20_memory: the accesses of the host interface (R56, R57, R163, R164)

What each access does by its own equation, and what stops it, with O38; then which operations leave a block as they
themselves left it, and O39. -/

namespace Sys2Proof.Machine

/-! ### The transactions, by case -/

theorem step_of_host_cons {s : State} {x : Txn} {rest : List Txn} (h : s.host = x :: rest) :
    step s = execTxn x { s with host := rest } := by
  rw [step, h]

theorem execRegRead_misaligned {o : Nat} (ho : o % 4 ≠ 0) (s : State) :
    execRegRead o s = .fault (.noRegisterAt o) := if_neg ho

theorem execRegWrite_misaligned {o : Nat} (ho : o % 4 ≠ 0) (v : Word) (s : State) :
    execRegWrite o v s = .fault (.noRegisterAt o) := if_neg ho

theorem execRegWrite_cmd (v : Word) (s : State) :
    execRegWrite 0x10 v s = execCommand v { s with reply := .none } := rfl

/-- A write to any other register is locked by FAULT (R163, R174). -/
theorem execRegWrite_of_ne_cmd {o : Nat} (ho : o % 4 = 0) (hc : o ≠ 0x10) (v : Word) (s : State) :
    execRegWrite o v s = .next (unlessFaulted (writeReg (Reg.at? o) v) { s with reply := .none }) := by
  rw [execRegWrite, if_pos ho]
  split
  · next hcmd => exact absurd (Reg.at?_eq_cmd hcmd) hc
  · rfl

/-- The effect of a pixel write when FAULT = 0 (R164): the cell is written, all four results are cleared. -/
def writePixel (i : Nat) (b : Bool) (s : State) : State := { s.dropRaw with pix := s.pix.write i b }

theorem writePixel_reply (i : Nat) (b : Bool) (s : State) : (writePixel i b s).reply = s.reply := rfl

theorem writePixel_params (i : Nat) (b : Bool) (s : State) : (writePixel i b s).params = s.params := rfl

theorem execPixWrite_of_lt {i : Nat} {s : State} (hi : i < s.pixCells) (b : Bool) :
    execPixWrite i b s = .next (unlessFaulted (writePixel i b) { s with reply := .none }) := if_pos hi

theorem execPixWrite_of_le {i : Nat} {s : State} (hi : s.pixCells ≤ i) (b : Bool) :
    execPixWrite i b s = .fault (.noPixelCell i) := if_neg (Nat.not_lt.2 hi)

/-- Settles O38: each access fails the one test its transaction begins with. -/
theorem accessOffTheInterfaceStops : Obligations.AccessOffTheInterfaceStops := by
  unfold Obligations.AccessOffTheInterfaceStops
  refine ⟨fun s rest o ho hs => ?_, fun s rest o v ho hs => ?_, fun s rest i b hi hs => ?_⟩
  · exact (step_of_host_cons hs).trans (execRegRead_misaligned ho _)
  · exact (step_of_host_cons hs).trans (execRegWrite_misaligned ho v _)
  · exact (step_of_host_cons hs).trans (execPixWrite_of_le (s := { s with host := rest }) hi b)

/-! ### What the updates leave as it is -/

/-- What an operation keeps, it keeps under the fault lock. -/
theorem unlessFaulted_keeps {α : Type} {k : State → State} (field : State → α)
    (hk : ∀ s, field (k s) = field s) (s : State) : field (unlessFaulted k s) = field s := by
  unfold unlessFaulted
  split
  · rfl
  · exact hk s

theorem writeReg_reply (r : Option Reg) (v : Word) (s : State) : (writeReg r v s).reply = s.reply := by
  rcases writeReg_cases r v s with h | h | h | h | h <;> simp [h]

/-- The effect of a transaction on the block leaves the host's reply alone. -/
theorem BlockEffect.reply_eq {x : Option Txn} {s t : State} (h : BlockEffect x s t) : t.reply = s.reply := by
  rcases h with rfl | ⟨rfl, -⟩ | ⟨-, ⟨_, _, -, rfl⟩ | ⟨-, -, -, -, -, rfl⟩ | ⟨-, _, -, -, rfl⟩ | ⟨-, -, -, rfl⟩ |
    ⟨-, _, -, rfl⟩ | ⟨-, _, -, rfl⟩ | ⟨-, rfl⟩ | ⟨r, v, rfl⟩ | ⟨_, _, -, rfl⟩⟩
  case inr.inr.inr.inr.inr.inr.inr.inr.inr.inl => exact writeReg_reply r v s
  all_goals rfl

theorem frameOp_width (op : Byte) (header : List Byte) (s : State) : (frameOp op header s).width = s.width := by
  rcases frameOp_cases op header s with ⟨-, h⟩ | ⟨_, -, h⟩ <;> simp [h]

theorem frameOp_height (op : Byte) (header : List Byte) (s : State) : (frameOp op header s).height = s.height := by
  rcases frameOp_cases op header s with ⟨-, h⟩ | ⟨_, -, h⟩ <;> simp [h]

/-! ### The operations repeated: what a result is computed from is not what the result overwrites -/

theorem writeReg_writeReg (r : Option Reg) (v : Word) (s : State) :
    writeReg r v (writeReg r v s) = writeReg r v s := by
  rcases r with _ | r
  · rfl
  · cases r <;> rfl

theorem writePixel_writePixel (i : Nat) (b : Bool) (s : State) :
    writePixel i b (writePixel i b s) = writePixel i b s := by
  show { s.dropRaw with pix := (s.pix.write i b).write i b } = writePixel i b s
  rw [Memory.write_write, writePixel]

theorem packOp_of_ok {s : State} (hw : s.width ≠ 0#32) (hh : s.height ≠ 0#32) (hfits : s.rawBytes ≤ s.rawLimit)
    (hcomplete : s.imageComplete = true) : packOp s = s.setRaw s.packed := by
  rw [packOp, if_neg (not_or.2 ⟨hw, hh⟩), if_neg (Nat.not_lt.2 hfits), if_neg (by simp [hcomplete])]

theorem compressOp_of_ok {s : State} {raw : List Byte} (hr : s.raw = some raw)
    (hlen : (s.compress raw).length ≤ Config.lenMax) :
    compressOp s = s.setCmp (u16le (s.compress raw).length ++ s.compress raw) := by
  simp only [compressOp, hr, if_neg (Nat.not_lt.2 hlen)]

theorem selectOp_of_ok {s : State} (hr : s.raw.isSome = true) (hc : s.cmp.isSome = true) :
    selectOp s = s.setTag (decide (s.sizeC < s.sizeR)) := by
  rw [selectOp, State.rawv, State.cmpv, hr, hc, if_neg (by simp)]

theorem frameOp_of_bm {s : State} {bm : List Byte} (hb : s.bm = some bm) (op : Byte) (header : List Byte) :
    frameOp op header s = s.setOut (header ++ bm) := by
  simp only [frameOp, hb]

/-- PACK reads WIDTH, HEIGHT and PIX, and keeps them (R104). -/
theorem packOp_packOp {s : State} (hok : (packOp s).fault = false) : packOp (packOp s) = packOp s := by
  rcases packOp_cases s with ⟨f, h⟩ | ⟨hw, hh, hfits, hcomplete, h⟩
  · simp [h] at hok
  · rw [h]
    exact packOp_of_ok (s := s.setRaw s.packed) hw hh hfits hcomplete

/-- COMPRESS reads RAW, and keeps it (R122). -/
theorem compressOp_compressOp {s : State} (hok : (compressOp s).fault = false) :
    compressOp (compressOp s) = compressOp s := by
  rcases compressOp_cases s with ⟨f, h⟩ | ⟨raw, hr, hlen, h⟩
  · simp [h] at hok
  · rw [h]
    exact compressOp_of_ok (s := s.setCmp (u16le (s.compress raw).length ++ s.compress raw)) hr hlen

/-- SELECT reads RAW, CMP and their lengths, and keeps them (R131). -/
theorem selectOp_selectOp {s : State} (hok : (selectOp s).fault = false) : selectOp (selectOp s) = selectOp s := by
  rcases selectOp_cases s with h | ⟨hr, hc, h⟩
  · simp [h] at hok
  · rw [h]
    exact selectOp_of_ok (s := s.setTag (decide (s.sizeC < s.sizeR))) hr hc

/-- A framing command reads the tag and the payload, and keeps them (R142, R144). -/
theorem frameOp_frameOp {op : Byte} {header : List Byte} {s : State} (hok : (frameOp op header s).fault = false) :
    frameOp op header (frameOp op header s) = frameOp op header s := by
  rcases frameOp_cases op header s with ⟨-, h⟩ | ⟨bm, hb, h⟩
  · simp [h] at hok
  · rw [h]
    exact frameOp_of_bm (s := s.setOut (header ++ bm)) hb op header

/-! ### The writes repeated (R57) -/

theorem execCommand_reset (s : State) : execCommand resetWord s = .next s.hwReset := by
  rw [execCommand, if_neg (fun h => h.2 rfl)]
  rfl

/-- A faulted block ignores every command but RESET (R174). -/
theorem execCommand_of_fault {w : Word} {s : State} (hf : s.fault = true) (hw : w ≠ resetWord) :
    execCommand w s = .next s := if_pos ⟨hf, hw⟩

/-- A command changes nothing where its operation changes nothing. -/
theorem execCommand_of_fixed {w : Word} {i : Instr} {k : State → State} {s : State} (hf : s.fault = false)
    (hd : decodeCommand w = .ok i) (hexec : exec i s = .next (unlessFaulted k s)) (hk : k s = s) :
    execCommand w s = .next s := by
  rw [execCommand, if_neg (by simp [hf]), hd]
  exact hexec.trans (by rw [unlessFaulted_of_ok k hf, hk])

/-- A command that took a fault has locked the block, one that took none finds its operands as they were. -/
theorem execCommand_again {w : Word} {s u : State} (h : execCommand w s = .next u) : execCommand w u = .next u := by
  by_cases hw : w = resetWord
  · subst hw
    rw [execCommand_reset] at h
    cases h
    exact execCommand_reset s.hwReset
  cases hu : u.fault with
  | true => exact execCommand_of_fault hu hw
  | false =>
    rcases execCommand_cases h with rfl | ⟨hreset, -⟩ | ⟨-, rfl | ⟨rfl, rfl⟩ | ⟨rfl, rfl⟩ | ⟨rfl, rfl⟩ | ⟨rfl, rfl⟩ |
      ⟨rfl, rfl⟩ | ⟨rfl, rfl⟩⟩
    · exact h
    · exact absurd hreset hw
    · simp at hu
    · exact execCommand_of_fixed (i := .pack) hu (by decide) rfl (packOp_packOp hu)
    · exact execCommand_of_fixed (i := .compress) hu (by decide) rfl (compressOp_compressOp hu)
    · exact execCommand_of_fixed (i := .select) hu (by decide) rfl (selectOp_selectOp hu)
    · exact execCommand_of_fixed (i := .framebm) hu (by decide) rfl (frameOp_frameOp hu)
    · refine execCommand_of_fixed (i := .framebmx) hu (by decide) rfl ?_
      rw [frameOp_width, frameOp_height]
      exact frameOp_frameOp hu
    · exact execCommand_of_fixed (i := .framemeta) hu (by decide) rfl rfl

theorem unlessFaulted_unlessFaulted {k : State → State} (hk : ∀ s, k (k s) = k s) (s : State) :
    unlessFaulted k (unlessFaulted k s) = unlessFaulted k s := by
  cases hf : s.fault with
  | true => rw [unlessFaulted_of_fault k hf, unlessFaulted_of_fault k hf]
  | false =>
    rw [unlessFaulted_of_ok k hf, unlessFaulted]
    split
    · rfl
    · exact hk s

/-- A register or pixel write made twice: the second one finds the reply that the first one left. -/
theorem unlessFaulted_again {k : State → State} (hreply : ∀ s, (k s).reply = s.reply) (hk : ∀ s, k (k s) = k s)
    {s u : State} (hu : u = unlessFaulted k { s with reply := .none }) :
    unlessFaulted k { u with reply := .none } = u := by
  have hnone : u.reply = .none := hu ▸ unlessFaulted_keeps State.reply hreply _
  have hself : { u with reply := .none } = u := by rw [← hnone]
  rw [hself, hu, unlessFaulted_unlessFaulted hk]

theorem execRegWrite_again {o : Nat} {v : Word} {s u : State} (h : execRegWrite o v s = .next u) :
    execRegWrite o v u = .next u := by
  by_cases ho : o % 4 = 0
  · by_cases hc : o = 0x10
    · subst hc
      rw [execRegWrite_cmd] at h ⊢
      have hreply : u.reply = .none := (execCommand_effect h).reply_eq
      rw [← hreply]
      exact execCommand_again h
    · rw [execRegWrite_of_ne_cmd ho hc] at h ⊢
      rw [unlessFaulted_again (writeReg_reply _ v) (writeReg_writeReg _ v) (Host.Outcome.next.inj h).symm]
  · rw [execRegWrite_misaligned ho] at h
    cases h

theorem execPixWrite_again {i : Nat} {b : Bool} {s u : State} (h : execPixWrite i b s = .next u) :
    execPixWrite i b u = .next u := by
  rcases Nat.lt_or_ge i s.pixCells with hi | hi
  · rw [execPixWrite_of_lt hi] at h
    have hu := (Host.Outcome.next.inj h).symm
    have hparams : u.params = s.params := hu ▸ unlessFaulted_keeps State.params (writePixel_params i b) _
    rw [execPixWrite_of_lt (State.pixCells_congr hparams ▸ hi),
      unlessFaulted_again (writePixel_reply i b) (writePixel_writePixel i b) hu]
  · rw [execPixWrite_of_le hi] at h
    cases h

/-- Settles O39: the reads are excluded, and each write finds the state it left as it would leave it. -/
theorem writesAreIdempotent : Obligations.WritesAreIdempotent := by
  unfold Obligations.WritesAreIdempotent
  intro t s u hread hbuf h
  cases t with
  | regRead o => exact absurd rfl (hread o)
  | bufRead sp a => exact absurd rfl (hbuf sp a)
  | regWrite o v => exact execRegWrite_again h
  | pixWrite i b => exact execPixWrite_again h
  | hardReset =>
    cases h
    rfl

end Sys2Proof.Machine

/-! # Family 30_encoding: encodings, and what an instruction writes and keeps (R71 to R79)

The decoder against the encoder in both directions, with O3, O4 and O26; the tag byte of a framed container, with O27;
what the instructions leave unchanged, with O32 and O33; the opcode map and the bytes of the records, with O1, O5 and
O29. -/

namespace Sys2Proof

/-! ### Decoding what was encoded (R72, R74 to R77) -/

theorem Instr.wellFormed_cblk_iff (data : List Byte) :
    (Instr.cblk data).wellFormed = true ↔ data.length ≤ 65535 :=
  decide_eq_true_iff

theorem Instr.wellFormed_bmRaw_iff (raw : List Byte) :
    (Instr.bmRaw raw).wellFormed = true ↔ 1 ≤ raw.length ∧ raw.length ≤ 2 ^ 32 - 10 :=
  Bm.wellFormed_raw_iff raw

theorem Instr.wellFormed_bmCmp_iff (data : List Byte) :
    (Instr.bmCmp data).wellFormed = true ↔ data.length ≤ 65535 :=
  Bm.wellFormed_cmp_iff data

/-- A record is read when its fields are and its payload length is allowed. -/
theorem decodeRecord_ok_iff {kind : RecordKind} {bytes : List Byte} {i : Instr} :
    decodeRecord kind bytes = .ok i ↔ decodeFields kind bytes = .ok i ∧ i.wellFormed = true := by
  rw [decodeRecord]
  cases decodeFields kind bytes with
  | error e => simp
  | ok j =>
    by_cases hwf : j.wellFormed = true
    · simp only [if_pos hwf, Decoded.ok.injEq]
      exact ⟨fun hj => ⟨hj, hj ▸ hwf⟩, And.left⟩
    · simp only [if_neg hwf, Decoded.ok.injEq, reduceCtorEq, false_iff]
      exact fun ⟨hj, hi⟩ => hwf (hj ▸ hi)

theorem decodeFields_cblk {data : List Byte} (h : data.length ≤ Config.lenMax) :
    decodeFields .cblk (u16le data.length ++ data) = .ok (.cblk data) := by
  simp only [decodeFields, decodeCounted_u16le data h]

theorem decodeFields_bm {bm : Bm} (h : bm.wellFormed = true) :
    decodeFields .bm (encodeBm bm) = .ok bm.toInstr := by
  simp only [decodeFields, decodeBm_encodeBm bm h]

theorem decodeFields_bmx (width height : Word) {bm : Bm} (h : bm.wellFormed = true) :
    decodeFields .bmx (u32le width ++ u32le height ++ encodeBm bm) = .ok (.bmx width height bm) := by
  simp only [decodeFields, List.append_assoc, takeU32_u32le, decodeBm_encodeBm bm h]

theorem decodeFields_metaRec (width height rate count : Word) :
    decodeFields .metaRec (u32le width ++ u32le height ++ u32le rate ++ u32le count) =
      .ok (.metaRec width height rate count) := by
  have hlast : takeU32 (u32le count) = some (count, []) := by simpa using takeU32_u32le count []
  simp only [decodeFields, List.append_assoc, takeU32_u32le, hlast]

/-- Settles O3: the eight words are those of R72, and each record's fields are read back in the order they were
written. -/
theorem decodeOfEncodeGivesInstructionBack : Obligations.DecodeOfEncodeGivesInstructionBack := by
  unfold Obligations.DecodeOfEncodeGivesInstructionBack
  intro i hwf
  cases i with
  | nop | pack | compress | select | framebm | framebmx | framemeta | reset => decide
  | cblk data => exact decodeRecord_ok_iff.2 ⟨decodeFields_cblk ((Instr.wellFormed_cblk_iff data).1 hwf), hwf⟩
  | bmRaw raw => exact decodeRecord_ok_iff.2 ⟨decodeFields_bm (bm := .raw raw) hwf, hwf⟩
  | bmCmp data => exact decodeRecord_ok_iff.2 ⟨decodeFields_bm (bm := .cmp data) hwf, hwf⟩
  | bmx width height bm =>
    obtain ⟨hbm, -⟩ := (Instr.wellFormed_bmx_iff width height bm).1 hwf
    exact decodeRecord_ok_iff.2 ⟨decodeFields_bmx width height hbm, hwf⟩
  | metaRec width height rate count =>
    exact decodeRecord_ok_iff.2 ⟨decodeFields_metaRec width height rate count, hwf⟩

/-! ### Encoding what was decoded (R71 to R79) -/

theorem encode_toInstr (bm : Bm) : encode bm.toInstr = .record .bm (encodeBm bm) := by
  cases bm <;> rfl

theorem toInstr_wellFormed (bm : Bm) : bm.toInstr.wellFormed = bm.wellFormed := by
  cases bm <;> rfl

/-- The fields of a record are read from the bytes that encode them, for each of the four layouts. -/
theorem encode_of_decodeFields {kind : RecordKind} {bytes : List Byte} {i : Instr}
    (h : decodeFields kind bytes = .ok i) : encode i = .record kind bytes := by
  cases kind with
  | cblk =>
    simp only [decodeFields] at h
    split at h
    · next data hdata =>
      cases h
      rw [decodeCounted_ok hdata, encode]
    · cases h
  | bm =>
    simp only [decodeFields] at h
    split at h
    · next bm hbm =>
      cases h
      rw [decodeBm_ok hbm, encode_toInstr]
    · cases h
  | bmx =>
    simp only [decodeFields] at h
    split at h
    · cases h
    next width rest hwidth =>
    split at h
    · cases h
    next height body hheight =>
    split at h
    · next bm hbm =>
      cases h
      rw [takeU32_some hwidth, takeU32_some hheight, decodeBm_ok hbm, encode, List.append_assoc]
    · cases h
  | metaRec =>
    simp only [decodeFields] at h
    split at h
    · cases h
    next width r1 hwidth =>
    split at h
    · cases h
    next height r2 hheight =>
    split at h
    · cases h
    next rate r3 hrate =>
    split at h
    · next count hcount =>
      cases h
      rw [takeU32_some hwidth, takeU32_some hheight, takeU32_some hrate, takeU32_some hcount, encode]
      simp only [List.append_assoc, List.append_nil]
    · cases h

/-- A command has no operand that could be ill formed. -/
theorem wellFormed_of_decodeCommand {w : Word} {i : Instr} (h : decodeCommand w = .ok i) : i.wellFormed = true := by
  rcases Machine.decodeCommand_cases h with ⟨-, rfl⟩ | ⟨-, rfl⟩ | ⟨-, rfl⟩ | ⟨-, rfl⟩ | ⟨-, rfl⟩ | ⟨-, rfl⟩ |
    ⟨-, rfl⟩ | ⟨-, rfl⟩
  all_goals rfl

/-- Settles O4: a command word by `decodeCommand_ok`, a record by its fields and the length test that stands behind
them. -/
theorem encodeOfDecodeGivesBitsBack : Obligations.EncodeOfDecodeGivesBitsBack := by
  unfold Obligations.EncodeOfDecodeGivesBitsBack
  intro e i h
  cases e with
  | command w => exact ⟨Machine.decodeCommand_ok h, wellFormed_of_decodeCommand h⟩
  | record kind bytes =>
    obtain ⟨hfields, hwf⟩ := decodeRecord_ok_iff.1 h
    exact ⟨encode_of_decodeFields hfields, hwf⟩

/-- Settles O1: each word of R72 evaluates to its operation. -/
theorem commandWordsDecodeByTheOpcodeMap : Obligations.CommandWordsDecodeByTheOpcodeMap := by
  unfold Obligations.CommandWordsDecodeByTheOpcodeMap
  decide

/-! ### The bytes of the records, written out (R74 to R77) -/

theorem recordBytes_cblk (data : List Byte) :
    recordBytes (.cblk data) = [BitVec.ofNat 8 data.length, BitVec.ofNat 8 (data.length / 256)] ++ data := rfl

theorem recordBytes_bmRaw (raw : List Byte) : recordBytes (.bmRaw raw) = [0x00#8] ++ raw := rfl

theorem recordBytes_bmCmp (data : List Byte) :
    recordBytes (.bmCmp data) =
      [0x01#8, BitVec.ofNat 8 data.length, BitVec.ofNat 8 (data.length / 256)] ++ data := rfl

/-- The container of a BMX record stands behind the two dimensions, as its own record has it (R76). -/
theorem recordBytes_bmx (w h : Word) (bm : Bm) :
    recordBytes (.bmx w h bm) =
      [w.extractLsb' 0 8, w.extractLsb' 8 8, w.extractLsb' 16 8, w.extractLsb' 24 8,
       h.extractLsb' 0 8, h.extractLsb' 8 8, h.extractLsb' 16 8, h.extractLsb' 24 8] ++
      recordBytes bm.toInstr := by
  have hbm : recordBytes bm.toInstr = encodeBm bm := by rw [recordBytes, encode_toInstr]
  rw [recordBytes, encode, u32le_eq, u32le_eq, hbm]
  rfl

theorem recordBytes_metaRec (w h r c : Word) :
    recordBytes (.metaRec w h r c) =
      [w.extractLsb' 0 8, w.extractLsb' 8 8, w.extractLsb' 16 8, w.extractLsb' 24 8,
       h.extractLsb' 0 8, h.extractLsb' 8 8, h.extractLsb' 16 8, h.extractLsb' 24 8,
       r.extractLsb' 0 8, r.extractLsb' 8 8, r.extractLsb' 16 8, r.extractLsb' 24 8,
       c.extractLsb' 0 8, c.extractLsb' 8 8, c.extractLsb' 16 8, c.extractLsb' 24 8] := by
  rw [recordBytes, encode, u32le_eq, u32le_eq, u32le_eq, u32le_eq]
  rfl

/-- Settles O5: the layouts hold for payloads of every length. -/
theorem recordBytesFollowTheLayouts : Obligations.RecordBytesFollowTheLayouts :=
  ⟨fun data _ => recordBytes_cblk data, recordBytes_bmRaw, fun data _ => recordBytes_bmCmp data,
    fun w h raw => recordBytes_bmx w h (.raw raw), fun w h data _ => recordBytes_bmx w h (.cmp data),
    recordBytes_metaRec⟩

end Sys2Proof

namespace Sys2Proof.Machine

/-! ### Framed containers (R75, R76, R79) -/

theorem exec_framebm_of_ok {s : State} (hf : s.fault = false) : exec .framebm s = .next (frameOp 0x04 [] s) :=
  congrArg Host.Outcome.next (unlessFaulted_of_ok _ hf)

theorem exec_framebmx_of_ok {s : State} (hf : s.fault = false) :
    exec .framebmx s = .next (frameOp 0x05 (u32le s.width ++ u32le s.height) s) :=
  congrArg Host.Outcome.next (unlessFaulted_of_ok _ hf)

/-- A chosen tag and its payload are a container that fits the block's dimensions (R38, R75, R80). -/
theorem bm_eq_encodeBm_of_inv {s : State} (h : Safety.Inv s) (ht : s.tag ≠ none) :
    ∃ bm : Bm, s.bm = some (encodeBm bm) ∧ bm.wellFormed = true ∧ bm.fits s.width s.height = true := by
  have hcmp : s.cmp.isSome = true := h.tagNeedsCmp (Option.isSome_iff_ne_none.2 ht)
  obtain ⟨cmp, hcmp⟩ := Option.isSome_iff_exists.1 hcmp
  obtain ⟨raw, hraw, hlen, rfl⟩ := h.cmpIsBlock cmp hcmp
  obtain ⟨hw, hh, -, -, hpacked⟩ := h.rawIsPacked raw hraw
  obtain ⟨t, ht⟩ := Option.ne_none_iff_exists'.1 ht
  cases t with
  | true =>
    exact ⟨.cmp (s.compress raw), State.bm_eq_some.2 (.inr ⟨_, ht, hcmp, rfl⟩),
      (Bm.wellFormed_cmp_iff _).2 hlen, (Bm.fits_cmp_iff _ _ _).2 ⟨hw, hh⟩⟩
  | false =>
    have hsize : raw.length = (s.width.toNat + 7) / 8 * s.height.toNat := by rw [hpacked]; exact s.length_packed
    have hpos : 1 ≤ raw.length := hsize ▸ Nat.mul_pos (by omega) hh
    exact ⟨.raw raw, State.bm_eq_some.2 (.inl ⟨raw, ht, hraw, rfl⟩),
      (Bm.wellFormed_raw_iff raw).2 ⟨hpos, h.length_raw_le hraw⟩, (Bm.fits_raw_iff _ _ raw).2 hsize⟩

/-- Settles O26: both commands write the encoding of a well-formed record around the block's one container, and what
is encoded is read back. -/
theorem framedContainersReadBack : Obligations.FramedContainersReadBack := by
  unfold Obligations.FramedContainersReadBack
  intro s h hf ht
  obtain ⟨bm, hbm, hwf, hfits⟩ := bm_eq_encodeBm_of_inv h ht
  refine ⟨_, _, _, _, bm, exec_framebm_of_ok hf, congrArg State.out (frameOp_of_bm hbm 0x04 []), ?_,
    exec_framebmx_of_ok hf, congrArg State.out (frameOp_of_bm hbm 0x05 _), ?_⟩
  · exact decodeRecord_ok_iff.2 ⟨decodeFields_bm hwf, (toInstr_wellFormed bm).trans hwf⟩
  · exact decodeRecord_ok_iff.2 ⟨decodeFields_bmx s.width s.height hwf,
      (Instr.wellFormed_bmx_iff _ _ bm).2 ⟨hwf, hfits⟩⟩

/-- What a framing command writes has the tag byte right behind the header (R79, R141). -/
theorem frameOp_tagByte {op : Byte} {header : List Byte} {s : State} (hok : (frameOp op header s).fault = false) :
    ∃ o b, (frameOp op header s).out = some o ∧ o[header.length]? = some b ∧ (b = 0x00 ∨ b = 0x01) := by
  rcases frameOp_cases op header s with ⟨-, h⟩ | ⟨bm, hbm, h⟩
  · simp [h] at hok
  · rw [h]
    rcases State.bm_eq_some.1 hbm with ⟨raw, -, -, rfl⟩ | ⟨cmp, -, -, rfl⟩
    · exact ⟨_, 0x00, rfl, by simp, .inl rfl⟩
    · exact ⟨_, 0x01, rfl, by simp, .inr rfl⟩

/-- Settles O27: FRAMEBM has no header, and FRAMEBMX has one of eight bytes. -/
theorem framedTagByteIsZeroOrOne : Obligations.FramedTagByteIsZeroOrOne := by
  unfold Obligations.FramedTagByteIsZeroOrOne
  refine ⟨fun s t hf h hok => ?_, fun s t hf h hok => ?_⟩
  · cases (exec_framebm_of_ok hf).symm.trans h
    exact frameOp_tagByte hok
  · cases (exec_framebmx_of_ok hf).symm.trans h
    exact frameOp_tagByte hok

/-! ### What the instructions leave unchanged (R33, R78, R172) -/

/-- Settles O32: no fault and no setter of a result touches a data register, PIX or the model's own fields. -/
theorem commandsKeepDataRegistersAndPixels : Obligations.CommandsKeepDataRegistersAndPixels := by
  unfold Obligations.CommandsKeepDataRegistersAndPixels
  intro i s t hi h
  rcases exec_cases hi h with rfl | ⟨-, ⟨f, op, rfl⟩ | ⟨-, bytes, rfl⟩ | ⟨-, bytes, rfl⟩ | ⟨-, tag, rfl⟩ |
    ⟨-, bytes, rfl⟩⟩
  all_goals exact ⟨rfl, rfl, rfl, rfl, fun _ => rfl, rfl, rfl, rfl, rfl, rfl⟩

/-- Settles O33: an instruction that takes no fault changes nothing or sets its own result, and each setter keeps what
stands upstream of it. -/
theorem operationsChangeOnlyTheirResults : Obligations.OperationsChangeOnlyTheirResults := by
  unfold Obligations.OperationsChangeOnlyTheirResults
  intro i s t hi h hfault
  rcases exec_cases hi h with rfl | ⟨hf, ⟨f, op, rfl⟩ | ⟨rfl, bytes, rfl⟩ | ⟨hcmp, bytes, rfl⟩ | ⟨rfl, tag, rfl⟩ |
    ⟨hnop, bytes, rfl⟩⟩
  · simp
  · simp [hf] at hfault
  · simp
  · rcases hcmp with rfl | ⟨data, rfl⟩ <;> simp
  · simp
  · simp [hnop]

/-! ### The record rows (R74 to R77) -/

theorem exec_metaRec (w h r c : Word) (s : State) :
    exec (.metaRec w h r c) s = emitRecord (.metaRec w h r c) "META" State.setOut s := rfl

/-- A well-formed record, on a block that is not faulted, is written whole. -/
theorem emitRecord_of_ok {i : Instr} (m : String) (write : List Byte → State → State) {s : State}
    (hf : s.fault = false) (hwf : i.wellFormed = true) :
    emitRecord i m write s = .next (write (recordBytes i) s) := by
  rw [emitRecord_wf m write s hwf, unlessFaulted_of_ok _ hf]

/-- A record row of OUT writes the record's bytes and their number, and nothing else. -/
theorem emitRecord_setOut {i : Instr} (m : String) {s : State} (hf : s.fault = false) (hwf : i.wellFormed = true)
    {bytes : List Byte} (hbytes : recordBytes i = bytes) {n : Nat} (hlen : (recordBytes i).length = n) :
    emitRecord i m State.setOut s = .next { s with out := some bytes, outlen := BitVec.ofNat 32 n } := by
  rw [emitRecord_of_ok m _ hf hwf, State.setOut, hlen, hbytes]

/-- Settles O29: each record within its layout's range is written by its buffer's setter; the bytes are those of the
layouts and their number is the record's length. -/
theorem recordsWriteTheirBuffers : Obligations.RecordsWriteTheirBuffers := by
  unfold Obligations.RecordsWriteTheirBuffers
  intro s hf
  refine ⟨fun data hdata => ?_, fun raw hpos hmax => ?_, fun data hdata => ?_, fun w h raw hpos hmax hfits => ?_,
    fun w h data hdata hw hh => ?_, fun w h r c => ?_⟩
  · rw [exec_cblk, emitRecord_of_ok _ _ hf ((Instr.wellFormed_cblk_iff data).2 hdata), State.setCmp,
      Laws.RecordLength.cblk data, Nat.add_comm, recordBytes_cblk]
    rfl
  · exact emitRecord_setOut _ hf ((Instr.wellFormed_bmRaw_iff raw).2 ⟨hpos, hmax⟩) (recordBytes_bmRaw raw)
      (Laws.RecordLength.bmRaw raw)
  · exact emitRecord_setOut _ hf ((Instr.wellFormed_bmCmp_iff data).2 hdata) (recordBytes_bmCmp data)
      (Laws.RecordLength.bmCmp data)
  · exact emitRecord_setOut _ hf ((Instr.wellFormed_bmx_iff w h _).2
      ⟨(Bm.wellFormed_raw_iff raw).2 ⟨hpos, hmax⟩, (Bm.fits_raw_iff w h raw).2 hfits⟩)
      (recordBytes_bmx w h (.raw raw)) (Laws.RecordLength.bmx w h (.raw raw))
  · exact emitRecord_setOut _ hf ((Instr.wellFormed_bmx_iff w h _).2
      ⟨(Bm.wellFormed_cmp_iff data).2 hdata, (Bm.fits_cmp_iff w h data).2 ⟨hw, hh⟩⟩)
      (recordBytes_bmx w h (.cmp data)) (Laws.RecordLength.bmx w h (.cmp data))
  · rw [exec_metaRec]
    exact emitRecord_setOut _ hf rfl (recordBytes_metaRec w h r c) (Laws.RecordLength.metaRec w h r c)

end Sys2Proof.Machine

/-! # Family 40_encoder: PACK, its faults, its bytes and what it reads (R101 to R108)

PACK's outcome in each branch of R102 to R104, what a lane of the packed image holds, and O13 to O17. -/

namespace Sys2Proof.Machine

/-! ### PACK's outcomes (R102, R104, R172, R180) -/

theorem exec_pack_of_ok {s : State} (hf : s.fault = false) : exec .pack s = .next (packOp s) :=
  congrArg Host.Outcome.next (unlessFaulted_of_ok _ hf)

theorem packOp_of_zeroDim {s : State} (hdim : s.width = 0#32 ∨ s.height = 0#32) :
    packOp s = s.raise .eDim 0x01 :=
  if_pos hdim

theorem packOp_of_overCapacity {s : State} (hw : s.width ≠ 0#32) (hh : s.height ≠ 0#32)
    (hcap : s.rawLimit < s.rawBytes) : packOp s = s.raise .eCap 0x01 := by
  rw [packOp, if_neg (not_or.2 ⟨hw, hh⟩), if_pos hcap]

theorem packOp_of_incomplete {s : State} (hw : s.width ≠ 0#32) (hh : s.height ≠ 0#32)
    (hfits : s.rawBytes ≤ s.rawLimit) (hincomplete : s.imageComplete = false) :
    packOp s = s.raise .eFormat 0x01 := by
  rw [packOp, if_neg (not_or.2 ⟨hw, hh⟩), if_neg (Nat.not_lt.2 hfits), if_pos hincomplete]

/-- The image is incomplete exactly when a needed cell holds `⊥` (R107). -/
theorem State.imageComplete_eq_false_iff (s : State) :
    s.imageComplete = false ↔ ∃ i, i < s.pixelCount ∧ s.pix.read i = none := by
  simp [State.imageComplete]

/-- PACK of a complete image within the capacity writes the packed bytes (R104). -/
theorem exec_pack_of_image {s : State} (hf : s.fault = false) (hw : s.width ≠ 0#32) (hh : s.height ≠ 0#32)
    (hfits : s.rawBytes ≤ s.rawLimit) (hcells : ∀ i, i < s.pixelCount → s.pix.read i ≠ none) :
    exec .pack s = .next (s.setRaw s.packed) := by
  rw [exec_pack_of_ok hf, packOp_of_ok hw hh hfits
    ((State.imageComplete_iff s).2 fun i hi => Option.isSome_iff_ne_none.2 (hcells i hi))]

/-- Settles O13: the three conditions exclude one another in the order of R180, and each raise has R172's entry. -/
theorem packRaisesItsFaultsInOrder : Obligations.PackRaisesItsFaultsInOrder := by
  unfold Obligations.PackRaisesItsFaultsInOrder
  intro s hf
  rw [exec_pack_of_ok hf]
  refine ⟨fun hdim => ?_, fun hw hh hcap => ?_, fun hw hh hfits hbottom => ?_⟩
  · rw [packOp_of_zeroDim hdim]; rfl
  · rw [packOp_of_overCapacity hw hh hcap]; rfl
  · rw [packOp_of_incomplete hw hh hfits (s.imageComplete_eq_false_iff.2 hbottom)]; rfl

/-! ### The lanes of the packed image (R101, R104, R105) -/

/-- The packed bit of a cell is 1 exactly for a black pixel (R101). -/
theorem pixelBit_eq_decide (p : Option Bool) : pixelBit p = decide (p = some false) := by
  rcases p with _ | _ | _ <;> rfl

/-- A lane is 1 exactly for a black pixel inside the row; a padding lane is 0 (R104, R105). -/
theorem State.laneBit_eq (s : State) (y k j : Nat) :
    s.laneBit y k j =
      if 8 * k + j < s.width.toNat then decide (s.pix.read (y * s.width.toNat + (8 * k + j)) = some false)
      else false := by
  rw [State.laneBit, pixelBit_eq_decide, Config.padBit]

/-- Pixel `x` of row `y` is one of the image's cells (R104). -/
theorem State.cell_lt_pixelCount (s : State) {y x : Nat} (hy : y < s.height.toNat) (hx : x < s.width.toNat) :
    y * s.width.toNat + x < s.pixelCount := by
  rw [State.pixelCount]
  calc y * s.width.toNat + x < (y + 1) * s.width.toNat := by rw [Nat.succ_mul]; omega
    _ ≤ s.height.toNat * s.width.toNat := Nat.mul_le_mul_right _ hy
    _ = s.width.toNat * s.height.toNat := Nat.mul_comm _ _

/-- A byte below `N` lies in one of the image's rows (R103, R104). -/
theorem State.row_lt_height (s : State) {i : Nat} (hi : i < s.rawBytes) : i / s.stride < s.height.toNat :=
  Nat.div_lt_of_lt_mul hi

/-- In an image of one colour the lanes inside the row all hold that colour's inverted bit (R101, R106). -/
theorem State.laneBit_of_uniform (s : State) {c : Bool} (hcells : ∀ i, i < s.pixelCount → s.pix.read i = some c)
    {y : Nat} (hy : y < s.height.toNat) (k j : Nat) :
    s.laneBit y k j = (decide (8 * k + j < s.width.toNat) && !c) := by
  rw [State.laneBit]
  split
  next hx => rw [hcells _ (s.cell_lt_pixelCount hy hx), pixelBit, decide_eq_true hx, Bool.true_and]
  next hx => rw [decide_eq_false hx, Bool.false_and, Config.padBit]

/-- A byte depends on its eight lanes alone. -/
theorem packByte_congr {lane lane' : Nat → Bool} (h : ∀ j, j < 8 → lane j = lane' j) :
    packByte lane = packByte lane' :=
  BitVec.eq_of_getLsbD_eq fun j hj => by rw [getLsbD_packByte _ j hj, getLsbD_packByte _ j hj, h j hj]

/-- A byte whose first `n` lanes are 1 (R105, `LSB_FIRST`). -/
theorem packByte_lt {n : Nat} (hn : n ≤ 8) : packByte (fun j => decide (j < n)) = BitVec.ofNat 8 (2 ^ n - 1) := by
  interval_cases n <;> rfl

/-- The packed bytes depend on the lanes of the image's rows alone. -/
theorem State.packed_eq_of_laneBit {s s' : State} (hw : s.width = s'.width) (hh : s.height = s'.height)
    (hlane : ∀ y k j, y < s.height.toNat → s.laneBit y k j = s'.laneBit y k j) : s.packed = s'.packed := by
  have hstride : s.stride = s'.stride := by rw [State.stride, State.stride, hw]
  rw [State.packed, State.packed, State.rawBytes_congr hw hh, hstride]
  refine List.map_congr_left fun i hi => packByte_congr fun j _ => ?_
  have hrow : i / s.stride < s.height.toNat :=
    s.row_lt_height ((State.rawBytes_congr hw hh).symm ▸ List.mem_range.1 hi)
  exact hlane _ _ j (hstride ▸ hrow)

/-- Cells at or above `W*H` are no part of the packed bytes (R104, R108). -/
theorem State.packed_eq_of_image {s s' : State} (hw : s.width = s'.width) (hh : s.height = s'.height)
    (hcells : ∀ i, i < s.pixelCount → s.pix.read i = s'.pix.read i) : s.packed = s'.packed := by
  refine State.packed_eq_of_laneBit hw hh fun y k j hy => ?_
  rw [State.laneBit, State.laneBit, ← hw]
  split
  next hx => rw [hcells _ (s.cell_lt_pixelCount hy hx)]
  next => rfl

/-- Whether the image is complete depends on its own cells alone (R104, R107). -/
theorem State.imageComplete_eq_of_image {s s' : State} (hw : s.width = s'.width) (hh : s.height = s'.height)
    (hcells : ∀ i, i < s.pixelCount → s.pix.read i = s'.pix.read i) : s.imageComplete = s'.imageComplete := by
  rw [Bool.eq_iff_iff, State.imageComplete_iff, State.imageComplete_iff, ← State.pixelCount_congr hw hh]
  exact forall₂_congr fun i hi => by rw [hcells i hi]

/-! ### What PACK writes (R104, R106, R108) -/

/-- Settles O14: RAW is `State.packed`, whose byte `k` of row `y` has the lanes of `State.laneBit_eq`. -/
theorem packWritesTheInvertedPackedImage : Obligations.PackWritesTheInvertedPackedImage := by
  unfold Obligations.PackWritesTheInvertedPackedImage
  intro s hf hw hh hfits hcells
  refine ⟨s.packed, ?_, s.length_packed, fun y k j hy hk hj => ⟨_, s.packed_getElem? hy hk, ?_⟩⟩
  · rw [exec_pack_of_image hf hw hh hfits hcells, State.setRaw, State.length_packed]
    rfl
  · rw [getLsbD_packByte _ j hj, State.laneBit_eq]

/-- PACK of an image of one colour completes and writes the packed bytes. -/
theorem exec_pack_of_uniform {s : State} (hf : s.fault = false) (hw : s.width ≠ 0#32) (hh : s.height ≠ 0#32)
    (hfits : s.rawBytes ≤ s.rawLimit) {c : Bool} (hcells : ∀ i, i < s.pixelCount → s.pix.read i = some c) :
    exec .pack s = .next (s.setRaw s.packed) :=
  exec_pack_of_image hf hw hh hfits fun i hi => by simp [hcells i hi]

/-- Settles O15: every lane of an all-white image is 0, padding lanes included. -/
theorem allWhiteImagePacksToZeroBytes : Obligations.AllWhiteImagePacksToZeroBytes := by
  unfold Obligations.AllWhiteImagePacksToZeroBytes
  intro s hf hw hh hfits hwhite
  refine ⟨_, exec_pack_of_uniform hf hw hh hfits hwhite, hf, congrArg some ?_⟩
  refine List.eq_replicate_iff.2 ⟨s.length_packed, fun b hb => ?_⟩
  obtain ⟨i, hi, rfl⟩ := List.mem_map.1 hb
  have hlane : ∀ j, s.laneBit (i / s.stride) (i % s.stride) j = decide (j < 0) := fun j => by
    rw [s.laneBit_of_uniform hwhite (s.row_lt_height (List.mem_range.1 hi))]
    simp
  exact (packByte_congr fun j _ => hlane j).trans (packByte_lt (Nat.zero_le 8))

/-- Byte `k` of a row of an all-black image has its first `n` lanes 1, `n` being the number of the row's pixels that
fall into it, 8 at most (R106). -/
theorem State.packByte_of_black {s : State} (hblack : ∀ i, i < s.pixelCount → s.pix.read i = some false)
    {y k n : Nat} (hy : y < s.height.toNat) (hn : min 8 (s.width.toNat - 8 * k) = n) :
    packByte (s.laneBit y k) = BitVec.ofNat 8 (2 ^ n - 1) := by
  have hlane : ∀ j, j < 8 → s.laneBit y k j = decide (j < n) := fun j hj => by
    rw [s.laneBit_of_uniform hblack hy, Bool.not_false, Bool.and_true, decide_eq_decide]
    omega
  exact (packByte_congr hlane).trans (packByte_lt (by omega))

/-- Settles O16: all eight pixels of a byte lie in the row, or it is the last byte of a row whose width is no multiple
of 8, and `W mod 8` of them do. -/
theorem allBlackImagePacksToOnePixelBits : Obligations.AllBlackImagePacksToOnePixelBits := by
  unfold Obligations.AllBlackImagePacksToOnePixelBits
  intro s hf hw hh hfits hblack
  refine ⟨_, s.packed, exec_pack_of_uniform hf hw hh hfits hblack, hf, rfl, fun y k hy hk => ?_⟩
  refine (s.packed_getElem? hy hk).trans (congrArg some ?_)
  split
  next hfull => exact State.packByte_of_black hblack hy (n := 8) (by omega)
  next hpart => exact State.packByte_of_black hblack hy (by omega)

/-- Settles O17: the two blocks take the same branch of PACK, and where they complete, their packed bytes are equal. -/
theorem packDependsOnlyOnTheImage : Obligations.PackDependsOnlyOnTheImage := by
  unfold Obligations.PackDependsOnlyOnTheImage
  intro s s' hf hf' hparams hw hh hcells
  refine ⟨_, _, exec_pack_of_ok hf, exec_pack_of_ok hf', ?_⟩
  rw [packOp, packOp, ← hw, ← hh, ← State.rawLimit_congr hparams, ← State.rawBytes_congr hw hh,
    ← State.imageComplete_eq_of_image hw hh hcells, ← State.packed_eq_of_image hw hh hcells]
  split_ifs <;> simp [hf, hf']

end Sys2Proof.Machine

/-! # Family 41_compressor_interface: COMPRESS, the records written, the hypotheses on `compress` (R122 to R125)

The three outcomes of COMPRESS, each command as the act of writing its record, with O18 and O31; the container that
stands for RAW on either branch, with O28; COMPRESS followed by SELECT, with O22. -/

namespace Sys2Proof

theorem recordBytes_toInstr (bm : Bm) : recordBytes bm.toInstr = encodeBm bm := by
  rw [recordBytes, encode_toInstr]

/-- Different containers have different bytes: the tag tells the form, and the length field has a fixed width (R75). -/
theorem encodeBm_injective : Function.Injective encodeBm := by
  intro bm bm' heq
  cases bm with
  | raw bytes =>
    cases bm' with
    | raw bytes' => rw [(List.cons.inj heq).2]
    | cmp data' => exact absurd (List.cons.inj heq).1 (by decide)
  | cmp data =>
    cases bm' with
    | raw bytes' => exact absurd (List.cons.inj heq).1 (by decide)
    | cmp data' => rw [(List.append_inj (List.cons.inj heq).2 (by simp)).2]

end Sys2Proof

namespace Sys2Proof.Machine

/-! ### The commands as record writes (R122, R142, R144, R146) -/

/-- A command under the fault lock is a record's write when its operation is; in a faulted block both are ignored
(R174). -/
theorem next_eq_emitRecord {k : State → State} {i : Instr} {write : List Byte → State → State} {s : State}
    (m : String) (hwf : i.wellFormed = true) (hk : k s = write (recordBytes i) s) :
    .next (unlessFaulted k s) = emitRecord i m write s := by
  rw [emitRecord_wf m write s hwf, unlessFaulted, unlessFaulted, hk]

theorem exec_compress_eq_cblk {s : State} {raw : List Byte} (hr : s.raw = some raw)
    (hlen : (s.compress raw).length ≤ 65535) : exec .compress s = exec (.cblk (s.compress raw)) s :=
  next_eq_emitRecord "CBLK" ((Instr.wellFormed_cblk_iff _).2 hlen) (compressOp_of_ok hr hlen)

theorem exec_framebm_eq_record {s : State} {bm : Bm} (hbm : s.bm = some (encodeBm bm)) (hwf : bm.wellFormed = true) :
    exec .framebm s = exec bm.toInstr s := by
  have hk : frameOp 0x04 [] s = s.setOut (recordBytes bm.toInstr) := by
    rw [frameOp_of_bm hbm, recordBytes_toInstr, List.nil_append]
  cases bm with
  | raw bytes => exact next_eq_emitRecord "BM.RAW" hwf hk
  | cmp data => exact next_eq_emitRecord "BM.CMP" hwf hk

theorem exec_framebmx_eq_record {s : State} {bm : Bm} (hbm : s.bm = some (encodeBm bm)) (hwf : bm.wellFormed = true)
    (hfits : bm.fits s.width s.height = true) : exec .framebmx s = exec (.bmx s.width s.height bm) s :=
  next_eq_emitRecord "BMX" ((Instr.wellFormed_bmx_iff _ _ bm).2 ⟨hwf, hfits⟩) (frameOp_of_bm hbm 0x05 _)

theorem exec_framemeta_eq_metaRec (s : State) :
    exec .framemeta s = exec (.metaRec s.width s.height s.frate s.fcount) s :=
  next_eq_emitRecord (i := .metaRec s.width s.height s.frate s.fcount) (write := State.setOut) "META" rfl rfl

/-! ### The container that stands for RAW (R38, R141) -/

theorem State.bm_of_rawTag {s : State} {raw : List Byte} (ht : s.tag = some false) (hr : s.raw = some raw) :
    s.bm = some (encodeBm (.raw raw)) :=
  State.bm_eq_some.2 (.inl ⟨raw, ht, hr, rfl⟩)

/-- With tag 1 the container holds what `compress` makes of the current RAW (R38.3). -/
theorem State.bm_of_cmpTag {s : State} {raw : List Byte} (h : Safety.Inv s) (ht : s.tag = some true)
    (hr : s.raw = some raw) : s.bm = some (encodeBm (.cmp (s.compress raw))) := by
  have hcmpv : s.cmp.isSome = true := h.tagNeedsCmp (Option.isSome_of_eq_some ht)
  obtain ⟨cmp, hcmp⟩ := Option.isSome_iff_exists.1 hcmpv
  obtain ⟨raw', hr', -, rfl⟩ := h.cmpIsBlock cmp hcmp
  cases hr.symm.trans hr'
  exact State.bm_eq_some.2 (.inr ⟨_, ht, hcmp, rfl⟩)

/-- The container of a block that meets the invariants is well formed and fits the block's dimensions. -/
theorem container_wellFormed_of_inv {s : State} {bm : Bm} (h : Safety.Inv s) (ht : s.tag ≠ none)
    (hbm : s.bm = some (encodeBm bm)) : bm.wellFormed = true ∧ bm.fits s.width s.height = true := by
  obtain ⟨bm', hbm', hwf, hfits⟩ := bm_eq_encodeBm_of_inv h ht
  cases encodeBm_injective (Option.some.inj (hbm.symm.trans hbm'))
  exact ⟨hwf, hfits⟩

theorem framing_eq_records_of_inv {s : State} {bm : Bm} (h : Safety.Inv s) (ht : s.tag ≠ none)
    (hbm : s.bm = some (encodeBm bm)) :
    exec .framebm s = exec bm.toInstr s ∧ exec .framebmx s = exec (.bmx s.width s.height bm) s :=
  have ⟨hwf, hfits⟩ := container_wellFormed_of_inv h ht hbm
  ⟨exec_framebm_eq_record hbm hwf, exec_framebmx_eq_record hbm hwf hfits⟩

/-- Settles O31: each command's operation is its record's write, and the invariants make the record well formed. -/
theorem commandsWriteTheRecordsTheirRulesName : Obligations.CommandsWriteTheRecordsTheirRulesName := by
  unfold Obligations.CommandsWriteTheRecordsTheirRulesName
  intro s h
  refine ⟨fun raw hr hlen => exec_compress_eq_cblk hr hlen, fun raw ht hr => ?_, fun raw ht hr => ?_,
    exec_framemeta_eq_metaRec s⟩
  · exact framing_eq_records_of_inv h (by simp [ht]) (State.bm_of_rawTag ht hr)
  · exact framing_eq_records_of_inv h (by simp [ht]) (State.bm_of_cmpTag h ht hr)

/-- FRAMEBM has no header: OUT is the container (R142). -/
theorem framebm_out_of_bm {s : State} {bm : List Byte} (hf : s.fault = false) (hbm : s.bm = some bm) :
    ∃ t, exec .framebm s = .next t ∧ t.out = some bm :=
  ⟨_, exec_framebm_of_ok hf, congrArg State.out (frameOp_of_bm hbm 0x04 [])⟩

/-- Settles O28: behind the tag byte stands RAW itself, or, behind the length field too, its compressed data. -/
theorem framedPayloadGivesRawBack : Obligations.FramedPayloadGivesRawBack := by
  unfold Obligations.FramedPayloadGivesRawBack
  intro s raw decompress h hf ht hr hundo
  obtain ⟨tag, htag⟩ := Option.ne_none_iff_exists'.1 ht
  cases tag with
  | false =>
    obtain ⟨t, hexec, hout⟩ := framebm_out_of_bm hf (State.bm_of_rawTag htag hr)
    exact ⟨t, _, hexec, hout, .inl ⟨rfl, rfl⟩⟩
  | true =>
    obtain ⟨t, hexec, hout⟩ := framebm_out_of_bm hf (State.bm_of_cmpTag h htag hr)
    exact ⟨t, _, hexec, hout, .inr ⟨rfl, hundo⟩⟩

/-! ### COMPRESS's outcomes (R122 to R124, R172) -/

theorem exec_compress_of_ok {s : State} (hf : s.fault = false) : exec .compress s = .next (compressOp s) :=
  congrArg Host.Outcome.next (unlessFaulted_of_ok _ hf)

theorem compressOp_of_noRaw {s : State} (hr : s.raw = none) : compressOp s = s.raise .eSeq 0x02 := by
  simp only [compressOp, hr]

theorem compressOp_of_tooLong {s : State} {raw : List Byte} (hr : s.raw = some raw)
    (hlen : 65535 < (s.compress raw).length) : compressOp s = s.raise .eLen 0x02 := by
  simp only [compressOp, hr]
  exact if_pos hlen

/-- Settles O18: the two faults have R172's entry, and the block is the record CBLK. -/
theorem compressWritesTheCompressedBlock : Obligations.CompressWritesTheCompressedBlock := by
  unfold Obligations.CompressWritesTheCompressedBlock
  intro s hf
  refine ⟨fun hr => ?_, fun raw hr hlong => ?_, fun raw hr hlen => ?_⟩
  · rw [exec_compress_of_ok hf, compressOp_of_noRaw hr]; rfl
  · rw [exec_compress_of_ok hf, compressOp_of_tooLong hr hlong]; rfl
  · obtain ⟨hcblk, -⟩ := recordsWriteTheirBuffers s hf
    rw [exec_compress_eq_cblk hr hlen, hcblk _ hlen, Nat.add_comm 2]

/-! ### COMPRESS, then SELECT (R125, R131) -/

theorem exec_select_of_ok {s : State} (hf : s.fault = false) : exec .select s = .next (selectOp s) :=
  congrArg Host.Outcome.next (unlessFaulted_of_ok _ hf)

/-- The size the selector compares after COMPRESS counts the length field and `C_OVH` (R122, R131). -/
theorem sizeC_setCmp_block (s : State) {data : List Byte} (hlen : data.length ≤ 65535) :
    (s.setCmp (u16le data.length ++ data)).sizeC = data.length + 4 := by
  rw [State.sizeC, State.setCmp_cmplen, BitVec.toNat_ofNat, List.length_append, length_u16le, Config.cOvh]
  omega

/-- Run on a RAW whose compressed data a u16 can count, COMPRESS and SELECT choose tag 1 exactly when the data with
its four bytes of overhead is shorter than the raw bytes with their one (R131). -/
theorem compress_select_tag {s : State} {raw : List Byte} (hf : s.fault = false) (hr : s.raw = some raw)
    (hrawlen : s.rawlen.toNat = raw.length) (hlen : (s.compress raw).length ≤ 65535) :
    ∃ c t, exec .compress s = .next c ∧ exec .select c = .next t ∧
      t.tag = some (decide ((s.compress raw).length + 4 < raw.length + 1)) := by
  have hcompress : exec .compress s = .next (s.setCmp (u16le (s.compress raw).length ++ s.compress raw)) := by
    rw [exec_compress_of_ok hf, compressOp_of_ok hr hlen]
  refine ⟨_, _, hcompress, exec_select_of_ok hf, ?_⟩
  rw [selectOp_of_ok (s := s.setCmp _) (Option.isSome_of_eq_some hr) rfl, State.setTag_tag,
    sizeC_setCmp_block s hlen, State.sizeR, State.setCmp_rawlen, hrawlen, Config.rOvh]

/-- Settles O22: `P_ZEROS1000` and `P_RANDOM` each decide the comparison. -/
theorem selectorIsCorrectUnderTheNamedHypotheses : Obligations.SelectorIsCorrectUnderTheNamedHypotheses := by
  unfold Obligations.SelectorIsCorrectUnderTheNamedHypotheses
  intro s raw hf hr hrawlen
  refine ⟨fun hzeros hshort => ?_, fun hrandom hlen => ?_⟩
  · have hdata : (s.compress raw).length ≤ 996 := hzeros ▸ hshort
    have hraw : raw.length = 1000 := by rw [hzeros, List.length_replicate]
    have hwins : (s.compress raw).length + 4 < raw.length + 1 := by omega
    exact decide_eq_true hwins ▸ compress_select_tag hf hr hrawlen (by omega)
  · have hloses : ¬ (s.compress raw).length + 4 < raw.length + 1 := Nat.not_lt.2 hrandom
    exact decide_eq_false hloses ▸ compress_select_tag hf hr hrawlen hlen

end Sys2Proof.Machine

/-! # Family 42_selector: SELECT and the container it leads to (R131 to R134)

The two outcomes of SELECT, with O19; its tie, with O20; what FRAMEBM writes for the tag it chose, with O21. -/

namespace Sys2Proof.Machine

/-! ### SELECT's outcomes (R131, R133, R172) -/

theorem selectOp_of_invalid {s : State} (h : s.raw = none ∨ s.cmp = none) : selectOp s = s.raise .eSeq 0x03 :=
  if_pos (h.imp (congrArg Option.isSome) (congrArg Option.isSome))

theorem exec_select_of_valid {s : State} (hf : s.fault = false) (hr : s.raw ≠ none) (hc : s.cmp ≠ none) :
    exec .select s = .next (s.setTag (decide (s.sizeC < s.sizeR))) := by
  rw [exec_select_of_ok hf, selectOp_of_ok (Option.isSome_iff_ne_none.2 hr) (Option.isSome_iff_ne_none.2 hc)]

/-- Settles O19: `E_SEQ` has R172's entry, and `sizeC` and `sizeR` are the two sums of R131. -/
theorem selectComparesTheSizes : Obligations.SelectComparesTheSizes := by
  unfold Obligations.SelectComparesTheSizes
  intro s hf
  refine ⟨fun hinvalid => ?_, fun hr hc => ?_⟩
  · rw [exec_select_of_ok hf, selectOp_of_invalid hinvalid]; rfl
  · rw [exec_select_of_valid hf hr hc, Bool.if_false_right, Bool.and_true]; rfl

/-- Settles O20: the comparison is strict, and equal sizes fail it. -/
theorem selectTieGivesTagZero : Obligations.SelectTieGivesTagZero := by
  unfold Obligations.SelectTieGivesTagZero
  intro s hf hr hc htie
  have hloses : ¬ s.sizeC < s.sizeR := Nat.not_lt.2 htie.ge
  rw [exec_select_of_valid hf hr hc, decide_eq_false hloses]; rfl

/-! ### The chosen container beside the other (R134, R142) -/

/-- Under the invariants the selector compares the lengths of the buffers themselves (R28, R29, R131). -/
theorem sizeC_lt_sizeR_iff_of_inv {s : State} {raw cmp : List Byte} (h : Safety.Inv s) (hr : s.raw = some raw)
    (hc : s.cmp = some cmp) : s.sizeC < s.sizeR ↔ cmp.length + 2 < raw.length + 1 := by
  have hrawlen : s.rawlen.toNat = raw.length := by simpa [Safety.counts, hr] using h.rawlenCounts
  have hcmplen : s.cmplen.toNat = cmp.length := by simpa [Safety.counts, hc] using h.cmplenCounts
  rw [State.sizeC, State.sizeR, hrawlen, hcmplen, Config.cOvh, Config.rOvh]

/-- FRAMEBM writes the container, and OUTLEN counts it without wrapping (R142, R149). -/
theorem framebm_out_outlen_of_inv {s : State} {bm : List Byte} (h : Safety.Inv s) (hf : s.fault = false)
    (hbm : s.bm = some bm) : ∃ u, exec .framebm s = .next u ∧ u.out = some bm ∧ u.outlen.toNat = bm.length := by
  have hfits : bm.length < 2 ^ 32 := (h.length_bm_le hbm).trans_lt (by decide)
  have hexec : exec .framebm s = .next (s.setOut bm) := by
    rw [exec_framebm_of_ok hf, frameOp_of_bm hbm, List.nil_append]
  exact ⟨_, hexec, rfl, Safety.counts_ofNat_some hfits⟩

/-- Settles O21: the tag decides which buffer is framed, and the comparison that gave the tag bounds its length. -/
theorem chosenContainerIsAtMostOneByteLonger : Obligations.ChosenContainerIsAtMostOneByteLonger := by
  unfold Obligations.ChosenContainerIsAtMostOneByteLonger
  intro s raw cmp h hf hr hc
  have hselect := exec_select_of_valid hf (by simp [hr]) (by simp [hc])
  have hinv := h.setTag hf (Option.isSome_of_eq_some hc)
  have hsizes := sizeC_lt_sizeR_iff_of_inv h hr hc
  by_cases hwins : s.sizeC < s.sizeR
  · rw [decide_eq_true hwins] at hselect hinv
    have hbm : (s.setTag true).bm = some (0x01 :: cmp) := State.bm_eq_some.2 (.inr ⟨cmp, rfl, hc, rfl⟩)
    obtain ⟨u, hframe, hout, hlen⟩ := framebm_out_outlen_of_inv hinv hf hbm
    have hshorter := hsizes.1 hwins
    refine ⟨_, u, _, true, hselect, rfl, hframe, hout, hlen, fun _ => ?_, nofun⟩
    rw [List.length_cons]
    omega
  · rw [decide_eq_false hwins] at hselect hinv
    have hbm : (s.setTag false).bm = some (0x00 :: raw) := State.bm_eq_some.2 (.inl ⟨raw, rfl, hr, rfl⟩)
    obtain ⟨u, hframe, hout, hlen⟩ := framebm_out_outlen_of_inv hinv hf hbm
    have hnotShorter := mt hsizes.2 hwins
    refine ⟨_, u, _, false, hselect, rfl, hframe, hout, hlen, nofun, fun _ => ?_⟩
    rw [List.length_cons]
    omega

end Sys2Proof.Machine

/-! # Family 43_framer: FRAMEBM, FRAMEBMX and FRAMEMETA (R141 to R146)

The two outcomes of a framing command for any header, with O23 and O24; FRAMEMETA as the record META, with O25. -/

namespace Sys2Proof.Machine

/-! ### The outcomes of a framing command (R141, R142, R144, R172) -/

/-- Without a tag there is no container to frame (R141). -/
theorem State.bm_of_noTag {s : State} (ht : s.tag = none) : s.bm = none := by
  rw [State.bm, State.payload, ht]
  rfl

/-- Framing without a tag raises `E_SEQ` (R148). -/
theorem frameOp_of_noTag {s : State} (ht : s.tag = none) (op : Byte) (header : List Byte) :
    frameOp op header s = s.raise .eSeq op := by
  simp only [frameOp, State.bm_of_noTag ht]

/-- Otherwise OUT is the header, the tag byte and the payload, and nothing but OUT and OUTLEN changes. -/
theorem frameOp_of_taggedPayload {s : State} {tag : Byte} {payload : List Byte} (hbm : s.bm = some (tag :: payload))
    (op : Byte) (header : List Byte) :
    frameOp op header s = { s with
      out := some (header ++ ([tag] ++ payload)),
      outlen := BitVec.ofNat 32 (header.length + (1 + payload.length)) } := by
  rw [frameOp_of_bm hbm, State.setOut, List.length_append, List.length_cons, Nat.add_comm 1]
  rfl

/-- Settles O23: FRAMEBM frames the tagged payload with an empty header. -/
theorem framebmWritesTheBmContainer : Obligations.FramebmWritesTheBmContainer := by
  unfold Obligations.FramebmWritesTheBmContainer
  intro s hf
  rw [exec_framebm_of_ok hf]
  refine ⟨fun ht => ?_, fun raw ht hr => ?_, fun cmp ht hc => ?_⟩
  · rw [frameOp_of_noTag ht]; rfl
  · have hbm : s.bm = some (0x00 :: raw) := State.bm_eq_some.2 (.inl ⟨raw, ht, hr, rfl⟩)
    rw [frameOp_of_taggedPayload hbm, List.nil_append, List.length_nil, Nat.zero_add]
  · have hbm : s.bm = some (0x01 :: cmp) := State.bm_eq_some.2 (.inr ⟨cmp, ht, hc, rfl⟩)
    rw [frameOp_of_taggedPayload hbm, List.nil_append, List.length_nil, Nat.zero_add]

/-- Settles O24: FRAMEBMX frames the tagged payload with the two dimensions, a header of eight bytes. -/
theorem framebmxWritesTheBmxContainer : Obligations.FramebmxWritesTheBmxContainer := by
  unfold Obligations.FramebmxWritesTheBmxContainer
  intro s hf
  rw [exec_framebmx_of_ok hf, u32le_eq, u32le_eq]
  refine ⟨fun ht => ?_, fun raw ht hr => ?_, fun cmp ht hc => ?_⟩
  · rw [frameOp_of_noTag ht]; rfl
  · have hbm : s.bm = some (0x00 :: raw) := State.bm_eq_some.2 (.inl ⟨raw, ht, hr, rfl⟩)
    rw [frameOp_of_taggedPayload hbm]; rfl
  · have hbm : s.bm = some (0x01 :: cmp) := State.bm_eq_some.2 (.inr ⟨cmp, ht, hc, rfl⟩)
    rw [frameOp_of_taggedPayload hbm]; rfl

/-! ### The metadata record (R77, R146) -/

/-- Settles O25: FRAMEMETA is the write of the record META, whose bytes O29 gives for any four values. -/
theorem framemetaWritesTheMetadataRecord : Obligations.FramemetaWritesTheMetadataRecord := by
  unfold Obligations.FramemetaWritesTheMetadataRecord
  intro s hf
  obtain ⟨-, -, -, -, -, hmeta⟩ := recordsWriteTheirBuffers s hf
  rw [exec_framemeta_eq_metaRec, hmeta]

end Sys2Proof.Machine

/-! # Family 44_control: commands, NOP and RESET, the five host transactions (R160 to R167, R200)

O12 and O10; command execution as the instruction's own step with O6, and the staged state's step with O7; then the
register, pixel and buffer transactions by case, with O34 to O37. -/

namespace Sys2Proof.Machine

/-! ### NOP and the two resets (R166, R167, R200) -/

/-- Settles O12: NOP's arm answers the state it is given. -/
theorem nopChangesNothing : Obligations.NopChangesNothing := by
  unfold Obligations.NopChangesNothing
  exact fun _ => rfl

/-- Settles O10: both resets are `hwReset`; the transaction also takes itself from the host's list. -/
theorem resetCommandAndHardwareResetRestoreEverything :
    Obligations.ResetCommandAndHardwareResetRestoreEverything := by
  unfold Obligations.ResetCommandAndHardwareResetRestoreEverything
  exact ⟨fun _ => rfl, fun _ _ hs => step_of_host_cons hs⟩

/-! ### Command execution (R71, R160, R174) -/

/-- A faulted block ignores a well-formed record's write (R174). -/
theorem emitRecord_of_fault {i : Instr} (m : String) (write : List Byte → State → State) {s : State}
    (hf : s.fault = true) (hwf : i.wellFormed = true) : emitRecord i m write s = .next s := by
  rw [emitRecord_wf m write s hwf, unlessFaulted_of_fault _ hf]

/-- A faulted block ignores every well-formed instruction but RESET (R174.1). -/
theorem exec_of_fault {i : Instr} {s : State} (hf : s.fault = true) (hwf : i.wellFormed = true)
    (hi : i ≠ .reset) : exec i s = .next s := by
  cases i with
  | nop => rfl
  | reset => exact absurd rfl hi
  | pack | compress | select | framebm | framebmx | framemeta =>
    exact congrArg Host.Outcome.next (unlessFaulted_of_fault _ hf)
  | cblk | bmRaw | bmCmp | bmx => exact emitRecord_of_fault _ _ hf hwf
  | metaRec => exact emitRecord_of_fault "META" _ hf hwf

/-- Only the word that a faulted block accepts decodes to RESET (R71, R72). -/
theorem eq_resetWord_of_decode {w : Word} (h : decodeCommand w = .ok .reset) : w = resetWord :=
  (Encoding.command.inj (decodeCommand_ok h)).symm

/-- Running a word that decodes is running its instruction: where the fault lock stops the word, the instruction
itself is ignored. -/
theorem execCommand_of_decode {w : Word} {i : Instr} (hd : decodeCommand w = .ok i) (s : State) :
    execCommand w s = exec i s := by
  by_cases hlock : s.fault = true ∧ w ≠ resetWord
  · obtain ⟨hf, hw⟩ := hlock
    have hi : i ≠ .reset := fun hi => hw (eq_resetWord_of_decode (hi ▸ hd))
    rw [execCommand_of_fault hf hw, exec_of_fault hf (wellFormed_of_decodeCommand hd) hi]
  · rw [execCommand, if_neg hlock, hd]

/-- Settles O6: the transaction is the execution of the word, and that is the execution of its instruction. -/
theorem stepRunsDecodedCommand : Obligations.StepRunsDecodedCommand := by
  unfold Obligations.StepRunsDecodedCommand
  intro s w rest i hs hd
  rw [step_of_host_cons hs]
  exact execCommand_of_decode hd _

/-! ### Staging (log entry 4) -/

theorem step_withCommand {w : Word} {i : Instr} (hd : decodeCommand w = .ok i) (s : State) :
    step (s.withCommand w) = exec i { s with reply := .none } :=
  stepRunsDecodedCommand (s.withCommand w) w s.host i rfl hd

/-- The first known value of `compress` is the one it takes. -/
theorem State.compress_of_known {s : State} {raw data : List Byte} {known : List (List Byte × List Byte)}
    (h : s.params.known = (raw, data) :: known) : s.compress raw = data := by
  rw [State.compress, h, List.lookup_cons_self]

theorem State.withPayload_bm (bm : Bm) (s : State) : (s.withPayload bm).bm = some (encodeBm bm) := by
  cases bm <;> rfl

/-- COMPRESS is the record's write of the data that `compress` makes of RAW. -/
theorem exec_compress_eq_cblk_of_compress {s : State} {raw data : List Byte} (hr : s.raw = some raw)
    (hdata : s.compress raw = data) (hwf : (Instr.cblk data).wellFormed = true) :
    exec .compress s = exec (.cblk data) s := by
  subst hdata
  exact exec_compress_eq_cblk hr ((Instr.wellFormed_cblk_iff _).1 hwf)

/-- FRAMEBMX is the record's write of the block's dimensions and its container. -/
theorem exec_framebmx_eq_bmx {s : State} {w h : Word} {bm : Bm} (hw : s.width = w) (hh : s.height = h)
    (hbm : s.bm = some (encodeBm bm)) (hwf : (Instr.bmx w h bm).wellFormed = true) :
    exec .framebmx s = exec (.bmx w h bm) s := by
  subst hw hh
  obtain ⟨hpayload, hfits⟩ := (Instr.wellFormed_bmx_iff _ _ _).1 hwf
  exact exec_framebmx_eq_record hbm hpayload hfits

/-- Settles O7: a staged command is the next write to CMD; for a record that write names the command which, with the
operands staged, is the record's write. -/
theorem stepRunsStagedInstruction : Obligations.StepRunsStagedInstruction := by
  unfold Obligations.StepRunsStagedInstruction
  intro i s hwf
  cases i with
  | nop | pack | compress | select | framebm | framebmx | framemeta | reset =>
    exact step_withCommand (by decide) s
  | cblk data =>
    exact (step_withCommand (i := .compress) (by decide) _).trans
      (exec_compress_eq_cblk_of_compress rfl (State.compress_of_known rfl) hwf)
  | bmRaw raw =>
    exact (step_withCommand (i := .framebm) (by decide) _).trans
      (exec_framebm_eq_record (bm := .raw raw) (State.withPayload_bm _ _) hwf)
  | bmCmp data =>
    exact (step_withCommand (i := .framebm) (by decide) _).trans
      (exec_framebm_eq_record (bm := .cmp data) (State.withPayload_bm _ _) hwf)
  | bmx width height bm =>
    have hbm := State.withPayload_bm bm { s with fault := false, width := width, height := height }
    cases bm with
    | raw | cmp =>
      exact (step_withCommand (i := .framebmx) (by decide) _).trans (exec_framebmx_eq_bmx rfl rfl hbm hwf)
  | metaRec width height rate count =>
    exact (step_withCommand (i := .framemeta) (by decide) _).trans (exec_framemeta_eq_metaRec _)

/-! ### Register reads (R20, R24 to R32, R162) -/

theorem Reg.offset_of_at? {o : Nat} {r : Reg} (h : Reg.at? o = some r) : o = r.offset := by
  unfold Reg.at? at h
  split at h <;> cases h <;> rfl

/-- STATUS as the sum of its five flags (R25). -/
theorem State.statusWord_eq (s : State) :
    s.statusWord = BitVec.ofNat 32
      (s.raw.isSome.toNat + 2 * s.cmp.isSome.toNat + 4 * s.tag.isSome.toNat + 8 * s.out.isSome.toNat +
        16 * s.fault.toNat) := by
  have all : ∀ r c t o f : Bool,
      0#27 ++ BitVec.ofBool f ++ BitVec.ofBool o ++ BitVec.ofBool t ++ BitVec.ofBool c ++ BitVec.ofBool r =
        BitVec.ofNat 32 (r.toNat + 2 * c.toNat + 4 * t.toNat + 8 * o.toNat + 16 * f.toNat) := by decide
  exact all _ _ _ _ _

/-- TAG reads 1 exactly when the tag is chosen and is 1 (R27). -/
theorem State.tagWord_eq (s : State) : s.tagWord = if s.tag = some true then 1 else 0 := by
  rcases ht : s.tag with _ | _ | _ <;> simp [State.tagWord, State.tagBit, ht]

theorem step_regRead {s : State} {rest : List Txn} {o : Nat} (ho : o % 4 = 0) (hs : s.host = .regRead o :: rest) :
    step s = .next { s with host := rest, reply := .word (((Reg.at? o).map s.readReg).getD 0) } :=
  (step_of_host_cons hs).trans (if_pos ho)

/-- Settles O34: the offset is a register's own or no register's; STATUS and TAG read as the words of their fields. -/
theorem registerReadReturnsTheRegister : Obligations.RegisterReadReturnsTheRegister := by
  unfold Obligations.RegisterReadReturnsTheRegister
  intro s rest o ho hs
  rw [step_regRead ho hs]
  congr 3
  cases hr : Reg.at? o with
  | some r =>
    obtain rfl := Reg.offset_of_at? hr
    cases r with
    | status => exact State.statusWord_eq s
    | tag => exact State.tagWord_eq s
    | width | height | frate | fcount | cmd | err | rawlen | cmplen | outlen => rfl
  | none =>
    unfold Reg.at? at hr
    split at hr <;> cases hr
    simp (disch := assumption) only [if_neg, Option.map_none, Option.getD_none]

/-! ### Register writes (R37, R163) -/

/-- A write to a register other than CMD, on a block that is not faulted. -/
theorem step_regWrite_of_ok {s : State} {rest : List Txn} {o : Nat} {v : Word} (hf : s.fault = false)
    (hs : s.host = .regWrite o v :: rest) (ho : o % 4 = 0) (hc : o ≠ 0x10) :
    step s = .next (writeReg (Reg.at? o) v { s with host := rest, reply := .none }) := by
  rw [step_of_host_cons hs, execTxn, execRegWrite_of_ne_cmd ho hc]
  exact congrArg Host.Outcome.next (unlessFaulted_of_ok _ hf)

/-- Above CMD no offset is a data register's: the registers there are read-only (R20, R32). -/
theorem writeReg_of_above_cmd {o : Nat} (ho : 0x14 ≤ o) (v : Word) (s : State) : writeReg (Reg.at? o) v s = s := by
  cases hr : Reg.at? o with
  | none => rfl
  | some r =>
    obtain rfl := Reg.offset_of_at? hr
    cases r with
    | width | height | frate | fcount => exact absurd ho (by decide)
    | cmd | status | err | tag | rawlen | cmplen | outlen => rfl

/-- Settles O36: the four data registers by their offsets, and every offset above CMD. -/
theorem registerWriteStoresAndClears : Obligations.RegisterWriteStoresAndClears := by
  unfold Obligations.RegisterWriteStoresAndClears
  intro s rest o v hf hs
  refine ⟨?_, ?_, ?_, ?_, fun ho habove =>
    (step_regWrite_of_ok hf hs ho (by omega)).trans (congrArg _ (writeReg_of_above_cmd habove v _))⟩
  all_goals
    rintro rfl
    exact step_regWrite_of_ok hf hs (by decide) (by decide)

/-! ### Pixel writes (R37, R164) -/

theorem step_pixWrite {s : State} {rest : List Txn} {i : Nat} {b : Bool} (hi : i < s.pixCells)
    (hs : s.host = .pixWrite i b :: rest) :
    step s = .next (unlessFaulted (writePixel i b) { s with host := rest, reply := .none }) :=
  (step_of_host_cons hs).trans (execPixWrite_of_lt (s := { s with host := rest }) hi b)

/-- Settles O37: the new PIX is the old one with the cell written. -/
theorem pixelWriteStoresAndClears : Obligations.PixelWriteStoresAndClears := by
  unfold Obligations.PixelWriteStoresAndClears
  intro s rest i b hi hs
  rw [step_pixWrite hi hs]
  refine ⟨fun hf => ?_, fun hf => ⟨s.pix.write i b, ?_, Memory.read_write s.pix i b⟩⟩
  · exact congrArg Host.Outcome.next (unlessFaulted_of_fault _ hf)
  · exact congrArg Host.Outcome.next (unlessFaulted_of_ok _ hf)

/-! ### Buffer reads (R165) -/

theorem execBufRead_of_some {sp : Space} {a : Nat} {s : State} {b : Byte}
    (h : (s.buffer sp).bind (·[a]?) = some b) : execBufRead sp a s = .next { s with reply := .byte b } := by
  rw [execBufRead, h]

/-- Where there is no byte the read draws the next free one (log entry 3). -/
theorem execBufRead_of_none {sp : Space} {a : Nat} {s : State} (h : (s.buffer sp).bind (·[a]?) = none) :
    execBufRead sp a s = .next { s with reply := .byte (Config.freeByte s.draws), draws := s.draws + 1 } := by
  rw [execBufRead, h]

/-- Settles O35: the buffer has a byte at the index, is invalid, or ends at or before it. -/
theorem bufferReadFollowsTheBuffer : Obligations.BufferReadFollowsTheBuffer := by
  unfold Obligations.BufferReadFollowsTheBuffer
  intro s rest sp a hs
  rw [step_of_host_cons hs]
  have hbind {o : Option (List Byte)} (hbuf : s.buffer sp = o) :
      (State.buffer { s with host := rest } sp).bind (·[a]?) = o.bind (·[a]?) := by
    rw [← hbuf]
    cases sp <;> rfl
  refine ⟨fun bytes b hbuf hb => ?_, fun hbuf => ?_, fun bytes hbuf ha => ?_⟩
  · exact execBufRead_of_some ((hbind hbuf).trans hb)
  · exact execBufRead_of_none (hbind hbuf)
  · exact execBufRead_of_none ((hbind hbuf).trans (List.getElem?_eq_none ha))

end Sys2Proof.Machine

/-! # Family 60_exceptions: illegal command words and the faulted block (R73, R172, R174, R178)

The words that decode, read as a range of their two fields, and what any other word raises, with O2; then what a faulted
block does with an instruction and with a transaction, with O40 and O41. -/

namespace Sys2Proof.Machine

/-! ### Illegal command words (R71 to R73, R178) -/

/-- A word that decodes has no reserved bit set, and its opcode is `0x00 .. 0x06` or `0x0F` (R72). -/
theorem fields_of_decodeCommand {w : Word} {i : Instr} (h : decodeCommand w = .ok i) :
    zeroField w = 0 ∧ ((opcField w).toNat ≤ 0x06 ∨ (opcField w).toNat = 0x0F) := by
  rcases decodeCommand_cases h with ⟨rfl, -⟩ | ⟨rfl, -⟩ | ⟨rfl, -⟩ | ⟨rfl, -⟩ | ⟨rfl, -⟩ | ⟨rfl, -⟩ | ⟨rfl, -⟩ |
    ⟨rfl, -⟩ <;> decide

/-- A block that is not faulted raises `E_CMD` on a word that decodes to nothing (R73). -/
theorem execCommand_of_illegal {w : Word} {s : State} (hf : s.fault = false) (hw : ∀ i, decodeCommand w ≠ .ok i) :
    execCommand w s = .next (s.raise .eCmd (opcField w)) := by
  rw [execCommand, if_neg (by simp [hf])]
  cases hd : decodeCommand w with
  | ok i => exact absurd hd (hw i)
  | error e => rfl

/-- Settles O2: each of the three clauses contradicts the fields of a word that decodes. -/
theorem illegalCommandWordTakesECmd : Obligations.IllegalCommandWordTakesECmd := by
  unfold Obligations.IllegalCommandWordTakesECmd
  intro s w rest hs hf hillegal
  have hw (i : Instr) : decodeCommand w ≠ .ok i := by
    intro hd
    obtain ⟨hzero, hopc⟩ := fields_of_decodeCommand hd
    rw [opcField] at hopc
    rcases hillegal with hreserved | hgap | habove
    · exact hreserved hzero
    · omega
    · omega
  rw [step_of_host_cons hs]
  exact execCommand_of_illegal (s := { s with host := rest, reply := .none }) hf hw

/-! ### The faulted block (R174) -/

/-- Settles O40: the fault lock stands before every meaning but RESET's. -/
theorem faultedBlockIgnoresInstructions : Obligations.FaultedBlockIgnoresInstructions := by
  unfold Obligations.FaultedBlockIgnoresInstructions
  exact fun _ _ hf hwf hi => exec_of_fault hf hwf hi

/-- A faulted block ignores a write to any register, unless it is RESET's word to CMD (R163, R174). -/
theorem execRegWrite_of_fault {o : Nat} {v : Word} {s : State} (hf : s.fault = true) (ho : o % 4 = 0)
    (hreset : o = 0x10 → v ≠ resetWord) : execRegWrite o v s = .next { s with reply := .none } := by
  by_cases hc : o = 0x10
  · subst hc
    exact (execRegWrite_cmd v s).trans (execCommand_of_fault (s := { s with reply := .none }) hf (hreset rfl))
  · rw [execRegWrite_of_ne_cmd ho hc]
    exact congrArg Host.Outcome.next (unlessFaulted_of_fault _ hf)

/-- A faulted block ignores a pixel write (R164, R174). -/
theorem execPixWrite_of_fault {i : Nat} {s : State} (hf : s.fault = true) (hi : i < s.pixCells) (b : Bool) :
    execPixWrite i b s = .next { s with reply := .none } := by
  rw [execPixWrite_of_lt hi]
  exact congrArg Host.Outcome.next (unlessFaulted_of_fault _ hf)

/-- A buffer read answers a byte, and changes at most the count of free bytes (R165; log entry 3). -/
theorem execBufRead_keeps_block (sp : Space) (a : Nat) (s : State) :
    ∃ (r : Reply) (d : Nat), execBufRead sp a s = .next { s with reply := r, draws := d } := by
  cases h : (s.buffer sp).bind (·[a]?) with
  | some b => exact ⟨_, s.draws, execBufRead_of_some h⟩
  | none => exact ⟨_, _, execBufRead_of_none h⟩

/-- Settles O41: a read changes no state of the block, a write meets the fault lock. -/
theorem faultedBlockChangesOnlyByReset : Obligations.FaultedBlockChangesOnlyByReset := by
  unfold Obligations.FaultedBlockChangesOnlyByReset
  intro s x rest hf hs hwf hhard hreset
  rw [step_of_host_cons hs]
  cases x with
  | regRead o => exact ⟨_, s.draws, if_pos (of_decide_eq_true hwf)⟩
  | regWrite o v =>
    have hv : o = 0x10 → v ≠ resetWord := by
      rintro rfl rfl
      exact hreset rfl
    exact ⟨_, s.draws, execRegWrite_of_fault (s := { s with host := rest }) hf (of_decide_eq_true hwf) hv⟩
  | pixWrite i b =>
    exact ⟨_, s.draws, execPixWrite_of_fault (s := { s with host := rest }) hf (of_decide_eq_true hwf) b⟩
  | bufRead sp a => exact execBufRead_keeps_block sp a { s with host := rest }
  | hardReset => exact absurd rfl hhard

end Sys2Proof.Machine

/-! # Family 70_reset_and_hazards: reset, the parameters, the pipeline's order (R200 to R203)

What no effect of a step touches, with O44; the pipeline's commands one after another, with O47; the block that waits,
with O8, and each command straight after reset, with O11. -/

namespace Sys2Proof.Machine

/-! ### The parameters (R5, R201) -/

theorem writeReg_params (r : Option Reg) (v : Word) (s : State) : (writeReg r v s).params = s.params := by
  rcases writeReg_cases r v s with h | h | h | h | h <;> simp [h]

/-- No effect of a transaction on the block touches the parameters. -/
theorem BlockEffect.params_eq {x : Option Txn} {s t : State} (h : BlockEffect x s t) : t.params = s.params := by
  rcases h with rfl | ⟨rfl, -⟩ | ⟨-, ⟨_, _, -, rfl⟩ | ⟨-, -, -, -, -, rfl⟩ | ⟨-, _, -, -, rfl⟩ | ⟨-, -, -, rfl⟩ |
    ⟨-, _, -, rfl⟩ | ⟨-, _, -, rfl⟩ | ⟨-, rfl⟩ | ⟨r, v, rfl⟩ | ⟨_, _, -, rfl⟩⟩
  · rfl
  · exact State.hwReset_params s
  · exact State.raise_params ..
  · exact State.setRaw_params ..
  · exact State.setCmp_params ..
  · exact State.setTag_params ..
  · exact State.setOut_params ..
  · exact State.setOut_params ..
  · exact State.setOut_params ..
  · exact writeReg_params r v s
  · exact State.dropRaw_params s

/-- Settles O44: what surrounds the transaction is no parameter, and no effect of `step_cases` touches one. -/
theorem noStepChangesTheParameters : Obligations.NoStepChangesTheParameters := by
  unfold Obligations.NoStepChangesTheParameters
  intro s t hstep
  obtain ⟨rest, r, d, heffect⟩ := step_cases hstep
  exact heffect.params_eq

/-! ### PACK, COMPRESS, SELECT, then a framing command (R82, R203) -/

/-- A packing within the capacity is within the capacity ceiling (R5, R103). -/
theorem State.length_packed_le {s : State} (hfits : s.rawBytes ≤ s.rawLimit) : s.packed.length ≤ 2 ^ 32 - 10 :=
  s.length_packed ▸ hfits.trans s.rawLimit_le

/-- COMPRESS of a RAW whose compressed data a u16 can count writes the Compressed Block (R122). -/
theorem exec_compress_of_fits {s : State} {raw data : List Byte} (hf : s.fault = false) (hr : s.raw = some raw)
    (hdata : s.compress raw = data) (hlen : data.length ≤ 65535) :
    exec .compress s = .next (s.setCmp (u16le data.length ++ data)) := by
  subst hdata
  rw [exec_compress_of_ok hf, compressOp_of_ok hr hlen]

/-- SELECT on a fresh Compressed Block chooses the compressed form exactly when `L + 3 < N` (R131, R134). -/
theorem exec_select_setCmp_block {s : State} {raw data : List Byte} (hf : s.fault = false) (hr : s.raw = some raw)
    (hrawlen : s.rawlen.toNat = raw.length) (hlen : data.length ≤ 65535) :
    exec .select (s.setCmp (u16le data.length ++ data)) =
      .next ((s.setCmp (u16le data.length ++ data)).setTag (decide (data.length + 3 < raw.length))) := by
  have hsizeR : (s.setCmp (u16le data.length ++ data)).sizeR = raw.length + 1 := congrArg (· + 1) hrawlen
  have hsizes : data.length + 4 < raw.length + 1 ↔ data.length + 3 < raw.length := by omega
  rw [exec_select_of_valid (s := s.setCmp _) hf (by simp [hr]) (by simp), sizeC_setCmp_block s hlen, hsizeR,
    decide_eq_decide.2 hsizes]

/-- The container R134 and R141 make of RAW and its compressed data: the compressed form exactly when `L + 3 < N`. -/
def chosenContainer (raw data : List Byte) : List Byte :=
  if data.length + 3 < raw.length then [0x01] ++ (u16le data.length ++ data) else [0x00] ++ raw

/-- The tag that records the choice between RAW and its Compressed Block frames the chosen container (R141). -/
theorem State.bm_eq_chosenContainer {s : State} {raw data : List Byte}
    (ht : s.tag = some (decide (data.length + 3 < raw.length))) (hr : s.raw = some raw)
    (hc : s.cmp = some (u16le data.length ++ data)) : s.bm = some (chosenContainer raw data) := by
  unfold chosenContainer
  split
  · next hshorter => exact State.bm_eq_some.2 (.inr ⟨_, decide_eq_true hshorter ▸ ht, hc, rfl⟩)
  · next hnot => exact State.bm_eq_some.2 (.inl ⟨raw, decide_eq_false hnot ▸ ht, hr, rfl⟩)

/-- The chosen container is never longer than the raw form, tag byte included. -/
theorem length_chosenContainer_le (raw data : List Byte) : (chosenContainer raw data).length ≤ raw.length + 1 := by
  unfold chosenContainer
  split
  · rw [List.length_append, List.length_append, length_u16le, List.length_singleton]
    omega
  · rw [List.length_append, List.length_singleton, Nat.add_comm]

/-- PACK, COMPRESS and SELECT leave a block that is not faulted, with the image's dimensions and with the container
chosen from the packing (R203, steps 3 to 5). -/
theorem exec_pack_compress_select {s : State} (hf : s.fault = false) (hw : s.width ≠ 0#32) (hh : s.height ≠ 0#32)
    (hfits : s.rawBytes ≤ s.rawLimit) (hcells : ∀ i, i < s.pixelCount → s.pix.read i ≠ none)
    (hlen : (s.compress s.packed).length ≤ 65535) :
    ∃ p c t, exec .pack s = .next p ∧ p.raw = some s.packed ∧ exec .compress p = .next c ∧ exec .select c = .next t ∧
      t.fault = false ∧ t.width = s.width ∧ t.height = s.height ∧
      t.bm = some (chosenContainer s.packed (s.compress s.packed)) := by
  have hN : s.packed.length ≤ 2 ^ 32 - 10 := State.length_packed_le hfits
  have hrawlen : (s.setRaw s.packed).rawlen.toNat = s.packed.length := Safety.counts_ofNat_some (by omega)
  have hdata : (s.setRaw s.packed).compress s.packed = s.compress s.packed := congrFun (State.compress_congr rfl) _
  have hpack := exec_pack_of_image hf hw hh hfits hcells
  have hcompress := exec_compress_of_fits (s := s.setRaw s.packed) hf rfl hdata hlen
  have hselect := exec_select_setCmp_block (s := s.setRaw s.packed) hf rfl hrawlen hlen
  exact ⟨_, _, _, hpack, rfl, hcompress, hselect, by simpa using hf, by simp, by simp,
    State.bm_eq_chosenContainer (by simp) (by simp) (by simp)⟩

/-- A framing command with a container ends successfully, and OUTLEN counts header and container without wrapping
(R142, R144, R211). -/
theorem frameOp_successful {s : State} {bm : List Byte} (hf : s.fault = false) (hbm : s.bm = some bm) (op : Byte)
    {header : List Byte} (hlen : header.length + bm.length < 2 ^ 32) :
    Safety.successful (frameOp op header s) ∧ (frameOp op header s).out = some (header ++ bm) ∧
      (frameOp op header s).outlen.toNat = header.length + bm.length := by
  rw [frameOp_of_bm hbm, ← List.length_append]
  exact ⟨⟨hf, rfl⟩, rfl, Safety.counts_ofNat_some (List.length_append ▸ hlen)⟩

/-- Settles O47: SELECT leaves the chosen container to frame, and the capacity leaves room in OUTLEN for the tag byte
and the header. -/
theorem pipelineOrderYieldsTheContainer : Obligations.PipelineOrderYieldsTheContainer := by
  unfold Obligations.PipelineOrderYieldsTheContainer
  intro s hf hw hh hfits hcells hlen
  obtain ⟨p, c, t, hpack, hraw, hcompress, hselect, htf, htw, hth, hbm⟩ :=
    exec_pack_compress_select hf hw hh hfits hcells hlen
  have hcapacity : s.packed.length ≤ 2 ^ 32 - 10 := State.length_packed_le hfits
  have hbmlen := length_chosenContainer_le s.packed (s.compress s.packed)
  have hheader : (u32le s.width ++ u32le s.height).length = 8 := by simp
  have hframebm := exec_framebm_of_ok htf
  have hframebmx := exec_framebmx_of_ok htf
  rw [htw, hth] at hframebmx
  obtain ⟨hok, hout, houtlen⟩ := frameOp_successful htf hbm 0x04 (header := []) (by rw [List.length_nil]; omega)
  obtain ⟨hokx, houtx, houtlenx⟩ :=
    frameOp_successful htf hbm 0x05 (header := u32le s.width ++ u32le s.height) (by rw [hheader]; omega)
  rw [hheader] at houtlenx
  exact ⟨p, c, t, _, _, _, hpack, hraw, hcompress, hselect, rfl, hframebm, hok, hout,
    houtlen.trans (Nat.zero_add _), hframebmx, hokx, houtx, houtlenx⟩

/-! ### The waiting block and the commands straight after reset (R200, R202) -/

/-- Settles O8: a step without a transaction is the first case of `step`. -/
theorem stepWithoutTransactionWaits : Obligations.StepWithoutTransactionWaits := by
  unfold Obligations.StepWithoutTransactionWaits
  intro s hs
  rw [step, hs]

/-- Settles O11: the reset state is not faulted, has no dimensions and no results, and each command's own statement
says what it does there. -/
theorem commandsStraightAfterReset : Obligations.CommandsStraightAfterReset := by
  unfold Obligations.CommandsStraightAfterReset
  obtain ⟨hreset, -⟩ := resetCommandAndHardwareResetRestoreEverything
  obtain ⟨hpack, -⟩ := packRaisesItsFaultsInOrder State.reset rfl
  obtain ⟨hcompress, -⟩ := compressWritesTheCompressedBlock State.reset rfl
  obtain ⟨hselect, -⟩ := selectComparesTheSizes State.reset rfl
  obtain ⟨hframebm, -⟩ := framebmWritesTheBmContainer State.reset rfl
  obtain ⟨hframebmx, -⟩ := framebmxWritesTheBmxContainer State.reset rfl
  exact ⟨nopChangesNothing State.reset, hreset State.reset, framemetaWritesTheMetadataRecord State.reset rfl,
    hpack (.inl rfl), hcompress rfl, hselect (.inl rfl), hframebm rfl, hframebmx rfl⟩

end Sys2Proof.Machine
